-- ==== Sys2Proof/Word.lean ====
section
/-!
DEFINITION. The word types of the CA64 engine (spec/00_scope.md R8 to R10) and their plainest arithmetic.
-/

namespace Sys2Proof

/-- `u64` (R9): the automaton state, the rule table and the unsigned operand ports. Bit 0 is the least
significant bit (R8); bit `i` of an automaton state is cell `i`. -/
abbrev Word := BitVec 64

/-- `sfx` (R10): a 64-bit two's-complement word with 32 fraction bits. Its raw value is `BitVec.toInt`; it
stands for the real number `raw / 2^32`. -/
abbrev Sfx := BitVec 64

/-- The legal window widths, 1 to 6 (R6, R23). `Evolve` and `Seed` take this type and are defined for no
other width (R95; spec/93_implementation_defined.md U1). -/
abbrev Order := { n : Nat // 1 ≤ n ∧ n ≤ 6 }

/-- The `sfx` word of a raw integer: the two's-complement pattern, modulo 2^64. Every store the spec makes
fits, so this never wraps in a state that a run reaches (R9, R33; log 10). -/
def sfxOfRaw (r : Int) : Sfx := BitVec.ofInt 64 r

end Sys2Proof
end

