-- ==== Sys2Proof/Config.lean ====
section
/-!
DEFINITION. The implementation parameters (spec/00_scope.md R6) and the free values: what the spec leaves
unspecified is an opaque constant here, which no proof can evaluate.
-/

namespace Sys2Proof

/-- The thirteen registers of the engine (spec/10_state.md R20), by name: the status ports of R43 carry the
same names, and the unspecified contents after a reset are indexed by them (R41). -/
inductive Reg where
  | S | RULE | ORDER | SEED_NEG | SEED_INT | SEED_FRAC | KIND | PA | CV | TV | DELTA | READY | ERR
  deriving DecidableEq, Repr

/-- The width of each register and of its status port (R20, R70). -/
def Reg.width : Reg → Nat
  | .S => 64
  | .RULE => 64
  | .ORDER => 3
  | .SEED_NEG => 1
  | .SEED_INT => 64
  | .SEED_FRAC => 32
  | .KIND => 2
  | .PA => 64
  | .CV => 64
  | .TV => 64
  | .DELTA => 64
  | .READY => 1
  | .ERR => 3

/-- `CANON_BIT` (R6): the one cell set in the canonical seed state. -/
def Config.canonBit : Nat := 15

/-- `WARMUP` (R6): the generations of canonical seeding. -/
def Config.warmup : Nat := 32

/-- `F` (R6, R7): fraction bits of `sfx`. DESIGN CHOICE: the named parameter at its default (log 6). -/
def Config.fracBits : Nat := 32

/-- `ONE` (R6): the raw value of 1.0. -/
def Config.one : Int := 2 ^ Config.fracBits

/-- `EPS_RAW` (R6, R105): the raw value of `EPS` = 2^-23, the one threshold of every comparison.
DESIGN CHOICE: the named parameter at its default (log 6). -/
def Config.epsRaw : Nat := 2 ^ (Config.fracBits - 23)

/-- `MAXU64` (R6, U4): the divisor of the amplitude mapping. -/
def Config.maxU64 : Int := 2 ^ 64 - 1

/-- `KIND` = 0, `RAMP` (R25). -/
def Config.kindRamp : BitVec 2 := 0

/-- `KIND` = 1, `RRAMP` (R25). -/
def Config.kindRRamp : BitVec 2 := 1

/-- `KIND` = 2, `BLOCK` (R25). -/
def Config.kindBlock : BitVec 2 := 2

/-- FREE VALUE (R41, U6): what an unspecified register holds after a reset; the second argument is the
step's free-value index. No proof can evaluate it (log 4). -/
opaque Config.unspecified (r : Reg) (n : Nat) : BitVec r.width

/-- FREE VALUE (R71, U8): what `out_data` carries while `out_valid` = 0 (log 15). -/
opaque Config.idleOutData (n : Nat) : Sfx

end Sys2Proof
end

