-- ==== Sys2Proof/Syntax.lean ====
section
/-!
DEFINITION. The six commands (spec/30_encoding.md R72, R75) with the operands they sample, what the host
presents on the command port (R70, R73), and the host's inputs as a whole.
-/

namespace Sys2Proof

/-- A seed in sign and magnitude (R79): `(-1)^neg * (int + frac / 2^32)`. The operand ports `seed_neg`,
`seed_int`, `seed_frac`, and the registers `SEED_NEG`, `SEED_INT`, `SEED_FRAC` (R24). -/
structure SeedValue where
  neg  : Bool
  int  : Word
  frac : BitVec 32
  deriving DecidableEq, Repr

/-- One command with its sampled operands: one constructor for each row of spec/opcode_table.json (R75).
Every bit pattern of every operand has a meaning (R86). -/
inductive Instr where
  /-- `NOP` (R160). -/
  | nop
  /-- `INIT.R` (R120). -/
  | initR (rule order : Word) (seed : SeedValue)
  /-- `INIT.RR` (R140). -/
  | initRR (rule order : Word) (seed : SeedValue)
  /-- `INIT.B` (R150). -/
  | initB (rule order : Word) (seed : SeedValue)
  /-- `TICK` (R122). -/
  | tick (speed trig : Sfx)
  /-- `BSTEP` (R151). -/
  | bstep
  deriving DecidableEq, Repr

/-- What stands on the command port when a command is accepted (R70, R73): the command word and every
operand port. A command samples only the ports it uses; the others may hold anything. -/
structure Command where
  cw    : BitVec 8
  rule  : Word
  order : Word
  seed  : SeedValue
  speed : Sfx
  trig  : Sfx
  deriving DecidableEq, Repr

/-- What the host does at one step: it presents a command, which the engine accepts (`cmd_valid` = 1), it
presents none (`cmd_valid` = 0, R73), or it asserts and releases `rst` (R190). -/
inductive Input where
  | command (c : Command)
  | idle
  | reset
  deriving DecidableEq, Repr

end Sys2Proof
end

