-- ==== Sys2Proof/WellFormed.lean ====
section
/-!
DEFINITION. Which command words are commands (spec/30_encoding.md R74, R77). The operands need no check:
every bit pattern on every operand port is given a meaning (R86).
-/

namespace Sys2Proof

/-- `cw[7:5]` is 0 (R74, R77). -/
def Command.rsvClear (c : Command) : Bool := c.cw.toNat / 32 == 0

/-- `cw[2:0]` is not one of the reserved operations 4 to 7 (R74, R77). -/
def Command.opDefined (c : Command) : Bool := decide (c.cw.toNat % 8 < 4)

/-- For `op` = 1, `cw[4:3]` is not the reserved kind 3 (R74, R77). -/
def Command.kindDefined (c : Command) : Bool := !(c.cw.toNat % 8 == 1 && c.cw.toNat / 8 % 4 == 3)

/-- For `op` other than 1, `cw[4:3]` is 0 (R74, R77). -/
def Command.kindClear (c : Command) : Bool := c.cw.toNat % 8 == 1 || c.cw.toNat / 8 % 4 == 0

/-- The command word is one of the six (R75): none of the four shapes of illegal word that R77 lists. -/
def Command.wellFormed (c : Command) : Bool :=
  c.rsvClear && c.opDefined && c.kindDefined && c.kindClear

/-- Every decoded command is well-formed whatever its operands hold: "No pattern is undefined" (R86). The
checks of operands that depend on their values are the command's own (R84, R178). -/
def Instr.wellFormed : Instr → Bool
  | .nop => true
  | .initR _ _ _ => true
  | .initRR _ _ _ => true
  | .initB _ _ _ => true
  | .tick _ _ => true
  | .bstep => true

end Sys2Proof
end

