-- ==== Sys2Proof/Decode.lean ====
section
/-!
DEFINITION. The decoding procedure (spec/30_encoding.md R84), total on all 256 command words and rejecting by
name, and after it the encoder (R74, R75).
-/

namespace Sys2Proof

/-- `cw[2:0]`, the operation (R74). -/
def cwOp (cw : BitVec 8) : BitVec 3 := cw.extractLsb' 0 3

/-- `cw[4:3]`, the kind of an `INIT` (R74). -/
def cwKind (cw : BitVec 8) : BitVec 2 := cw.extractLsb' 3 2

/-- `cw[7:5]`, reserved (R74). -/
def cwRsv (cw : BitVec 8) : BitVec 3 := cw.extractLsb' 5 3

/-- Why a command word is illegal, by the shapes of R77. All four raise `ILLEGAL_CMD` (R173). -/
inductive DecodeError where
  /-- `cw[7:5]` is not 0. -/
  | rsvNotZero
  /-- `op` is 4 to 7. -/
  | opReserved
  /-- `op` = 1 with `kind` = 3. -/
  | kindReserved
  /-- `kind` is not 0 with `op` other than 1. -/
  | kindNotZero
  deriving DecidableEq, Repr

/-- The decoding procedure of R84, which samples the operand ports the command uses (R73) and no other. -/
def decode (c : Command) : Except DecodeError Instr :=
  if cwRsv c.cw ≠ 0 then .error .rsvNotZero
  else if cwOp c.cw = 1 then
    if cwKind c.cw = 0 then .ok (.initR c.rule c.order c.seed)
    else if cwKind c.cw = 1 then .ok (.initRR c.rule c.order c.seed)
    else if cwKind c.cw = 2 then .ok (.initB c.rule c.order c.seed)
    else .error .kindReserved
  else if 4 ≤ (cwOp c.cw).toNat then .error .opReserved
  else if cwKind c.cw ≠ 0 then .error .kindNotZero
  else if cwOp c.cw = 0 then .ok .nop
  else if cwOp c.cw = 2 then .ok (.tick c.speed c.trig)
  else .ok .bstep

/-- The command word with the given fields, `{rsv, kind, op}` with `rsv` = 0 (R74). -/
def cwOfFields (kind : BitVec 2) (op : BitVec 3) : BitVec 8 := (0 : BitVec 3) ++ kind ++ op

/-- The command word of each command (R75). -/
def encodeWord : Instr → BitVec 8
  | .nop => cwOfFields 0 0
  | .initR _ _ _ => cwOfFields 0 1
  | .initRR _ _ _ => cwOfFields 1 1
  | .initB _ _ _ => cwOfFields 2 1
  | .tick _ _ => cwOfFields 0 2
  | .bstep => cwOfFields 0 3

/-- The command port with `i` presented on it and `d` on the ports `i` does not use (R70, R73: "ports a
command does not use are ignored and may hold anything"). -/
def encodeOver (d : Command) (i : Instr) : Command :=
  match i with
  | .nop => { d with cw := encodeWord i }
  | .initR rule order seed => { d with cw := encodeWord i, rule := rule, order := order, seed := seed }
  | .initRR rule order seed => { d with cw := encodeWord i, rule := rule, order := order, seed := seed }
  | .initB rule order seed => { d with cw := encodeWord i, rule := rule, order := order, seed := seed }
  | .tick speed trig => { d with cw := encodeWord i, speed := speed, trig := trig }
  | .bstep => { d with cw := encodeWord i }

/-- A command word with 0 on every operand port. -/
def commandOfWord (cw : BitVec 8) : Command :=
  { cw := cw, rule := 0, order := 0, seed := { neg := false, int := 0, frac := 0 }, speed := 0, trig := 0 }

/-- The encoder: the command port with `i` presented on it, the ports it does not use at 0. -/
def encode (i : Instr) : Command := encodeOver (commandOfWord 0) i

/-- The command port with the low `nbits` bits of `w` on `cw`, and 0 on every operand port: a word of the
opcode table gives no bits to the operands. -/
def commandOfTableWord (nbits w : Nat) : Command := commandOfWord (BitVec.ofNat 8 (w % 2 ^ nbits))

/-- The instruction the decoder reads from a word of the opcode table (8 bits; a wider value is no command
word). -/
def decodeTableWord (nbits w : Nat) : Option Instr :=
  if w % 2 ^ nbits < 256 then (decode (commandOfTableWord nbits w)).toOption else none

end Sys2Proof
end

