-- ==== Sys2Proof/Machine/State.lean ====
section
/-!
DEFINITION. The state of one engine: the thirteen registers of spec/10_state.md R20, the sample on the output
port, and the model's own two fields (what the host will present, and the index of the next free value).
-/

namespace Sys2Proof.Machine

/-- The value of `ERR` (spec/60_exceptions.md R171): the first error cause since it was last cleared. The
codes 6 and 7 are reserved and never held (U10), so they are no value of this type. -/
inductive Cause where
  /-- 0 `NONE`: no error recorded. -/
  | noError
  /-- 1 `ILLEGAL_CMD` (R173). -/
  | illegalCmd
  /-- 2 `ORDER_RANGE` (R174). -/
  | orderRange
  /-- 3 `SEED_NEGATIVE` (R175). -/
  | seedNegative
  /-- 4 `NOT_READY` (R176). -/
  | notReady
  /-- 5 `KIND_MISMATCH` (R177). -/
  | kindMismatch
  deriving DecidableEq, Repr

/-- The state of one engine. -/
structure State where
  /-- `S` (R21): the 64 cells, cell `i` in bit `i`. -/
  cells  : Word
  /-- `RULE` (R22): the rule table, entry `k` in bit `k`. -/
  rule   : Word
  /-- `ORDER` (R23): the window width. -/
  order  : BitVec 3
  /-- `SEED_NEG`, `SEED_INT`, `SEED_FRAC` (R24): the latched seed. -/
  seed   : SeedValue
  /-- `KIND` (R25): 0 `RAMP`, 1 `RRAMP`, 2 `BLOCK`. -/
  kind   : BitVec 2
  /-- `PA` (R26): the phase accumulator. -/
  pa     : Sfx
  /-- `CV` (R27): the current value. -/
  cv     : Sfx
  /-- `TV` (R28): the target value. -/
  tv     : Sfx
  /-- `DELTA` (R29): the ramp step basis. -/
  delta  : Sfx
  /-- `READY` (R30). -/
  ready  : Bool
  /-- `ERR` (R31). -/
  err    : Cause
  /-- The output port (R70, R71): the sample emitted by the last step; `none` is `out_valid` = 0. -/
  out    : Option Sfx
  /-- The model's own field: what the host presents at the coming steps, head first (log 1). -/
  inputs : List Input
  /-- The model's own field: the index of the next free values; every step advances it (log 4). -/
  fresh  : Nat
  deriving DecidableEq, Repr

/-- Where the spec gives a function no meaning: both are raised by `TICK` or `BSTEP` only, in states that no
run from reset reaches (`State.Inv` of Sys2Proof/Safety.lean rules them out). -/
inductive Fault where
  /-- `Evolve` or `Seed` would be entered while `ORDER` holds 0 or 7 (R95, U1: "a model ... never defines them
  elsewhere"). Safe: the model stops where the spec defines nothing (log 7). -/
  | orderUndefined
  /-- `Seed` would be entered with a negative latched seed that is not near zero, against its precondition
  (R100, U2). Safe: the model stops where the spec defines nothing (log 8). -/
  | seedUndefined
  deriving DecidableEq, Repr

/-- The reasons a step has no meaning. -/
inductive Refusal where
  /-- Raised by `exec` for an instruction that has no meaning yet. No arm of `exec` answers it: every
  command of the table is modelled. Safe. -/
  | notModelled (mnemonic : String)
  deriving DecidableEq, Repr

/-- The machine right after reset (R41, R190): `READY` = 0, `ERR` = 0, `out_valid` = 0. The other eleven
registers are unspecified there. DESIGN CHOICE (unsafe): they are named 0 here (log 3). No command is
pending: the host has presented none yet (log 2). -/
def State.reset : State where
  cells  := 0
  rule   := 0
  order  := 0
  seed   := { neg := false, int := 0, frac := 0 }
  kind   := 0
  pa     := 0
  cv     := 0
  tv     := 0
  delta  := 0
  ready  := false
  err    := .noError
  out    := none
  inputs := []
  fresh  := 0

end Sys2Proof.Machine
end

