-- ==== Sys2Proof/Machine/Operands.lean ====
section
/-!
DEFINITION. The operand formats (spec/30_encoding.md R78 to R80): what is computed from an operand port, and
nothing else.
-/

namespace Sys2Proof.Machine

/-- `abs` of an `sfx` operand (R9, R80): the magnitude, 0 to 2^63, with `abs(-2^63) = 2^63`. -/
def absSfx (x : Sfx) : Nat := x.toInt.natAbs

/-- `fdiv(a, b)` for `b > 0` (R9): the floor of the exact quotient. -/
def fdiv (a b : Int) : Int := a / b

/-- `asr(a, n)` (R9): the arithmetic right shift, rounding toward minus infinity. -/
def asr (a : Int) (n : Nat) : Int := fdiv a (2 ^ n)

/-- `seed_near_zero` (R79, R105): the magnitude is below `EPS`. The sign is not looked at. -/
def nearZero (sd : SeedValue) : Bool := sd.int == 0 && decide (sd.frac.toNat < Config.epsRaw)

/-- The precondition of `Seed` (R100): not negative, or near zero. -/
def admissible (sd : SeedValue) : Bool := !sd.neg || nearZero sd

/-- A number as a legal window width, if it is in 1..6 (R23, R174). -/
def legalOrder (n : Nat) : Option Order := if h : 1 ≤ n ∧ n ≤ 6 then some ⟨n, h⟩ else none

/-- The operand checks of an `INIT`, in the order of R178: the 64-bit `order` operand first (R174), then the
seed (R175). -/
def checkInit (order : Word) (sd : SeedValue) : Except Cause Order :=
  match legalOrder order.toNat with
  | none => .error .orderRange
  | some o => if admissible sd then .ok o else .error .seedNegative

end Sys2Proof.Machine
end

