-- ==== Sys2Proof/Machine/Flags.lean ====
section
/-!
DEFINITION. The status bits `READY` and `ERR` (spec/10_state.md R30, R31; spec/60_exceptions.md R171, R180) and
the comparisons local to one command (R37, R80, R123, R126, R143).
-/

namespace Sys2Proof.Machine

/-- The code of each cause in the 3-bit register `ERR` (R171). -/
def causeCode : Cause → BitVec 3
  | .noError => 0
  | .illegalCmd => 1
  | .orderRange => 2
  | .seedNegative => 3
  | .notReady => 4
  | .kindMismatch => 5

/-- The causes of a failed `INIT`, which end the instance (R172). -/
def endsInstance : Cause → Bool
  | .noError => false
  | .illegalCmd => false
  | .orderRange => true
  | .seedNegative => true
  | .notReady => false
  | .kindMismatch => false

/-- The frozen test of `TICK` (R123): the speed magnitude is below `EPS`, strictly. -/
def frozen (speed : Sfx) : Bool := decide (absSfx speed < Config.epsRaw)

/-- The trigger test of `TICK` (R141, R143): the magnitude of `trig` is at least `EPS`. -/
def triggerActive (trig : Sfx) : Bool := decide (Config.epsRaw ≤ absSfx trig)

/-- `dir` (R126): the strict signed comparison of the current value with the target. -/
def rising (cv tv : Sfx) : Bool := decide (cv.toInt < tv.toInt)

end Sys2Proof.Machine
end

