-- ==== Sys2Proof/Machine/Mapper.lean ====
section
/-!
DEFINITION. The state-to-amplitude mapping `ToAmp` (spec/42_mapper.md R110).
-/

namespace Sys2Proof.Machine

/-- The raw value of `ToAmp(s)` (R110): the state as an unsigned integer, mapped linearly onto -1.0 to +1.0
and rounded toward minus infinity. -/
def toAmpRaw (s : Word) : Int :=
  fdiv ((s.toNat : Int) * 2 ^ (Config.fracBits + 1)) Config.maxU64 - Config.one

/-- `ToAmp(s)` (R110) as an `sfx` word. -/
def toAmp (s : Word) : Sfx := sfxOfRaw (toAmpRaw s)

end Sys2Proof.Machine
end

