-- ==== Sys2Proof/Machine/Automaton.lean ====
section
/-!
DEFINITION. The cellular automaton update `Evolve` (spec/40_automaton.md R90 to R95).
-/

namespace Sys2Proof.Machine

/-- `rotr64(v, n)` for `n` in 0..63 (R9): bit `j` of the result is bit `(j + n) mod 64` of `v`. -/
def rotr64 (v : Word) (n : Nat) : Word := (v >>> n) ||| (v <<< (64 - n))

/-- The window value of cell `i` (R90 steps 1 and 2): the `o` consecutive cells that start one position behind
cell `i`, the cell behind having the lowest weight. -/
def windowKey (s : Word) (o : Order) (i : Nat) : Nat :=
  (rotr64 s ((i + 63) % 64)).toNat % 2 ^ o.val

/-- The next value of cell `i` (R90 step 3): the rule-table bit its window selects. -/
def nextCell (s rule : Word) (o : Order) (i : Nat) : Bool := rule.getLsbD (windowKey s o i)

/-- `Evolve(s, rule, order)` (R90): all 64 cells from the same snapshot `s`. -/
def evolve (s rule : Word) (o : Order) : Word :=
  (List.range 64).foldl (fun out i => out ||| ((BitVec.ofBool (nextCell s rule o i)).setWidth 64 <<< i)) 0

/-- `n` generations in sequence, each from the result of the one before (R101, R125). -/
def evolveN (rule : Word) (o : Order) : Nat → Word → Word
  | 0, s => s
  | n + 1, s => evolveN rule o n (evolve s rule o)

end Sys2Proof.Machine
end

