-- ==== Sys2Proof/Machine/Seeder.lean ====
section
/-!
DEFINITION. The seeding rule `Seed` (spec/41_seeder.md R100 to R105).
-/

namespace Sys2Proof.Machine

/-- The canonical state, with only cell `CANON_BIT` set (R101). -/
def canonicalState : Word := 1 <<< Config.canonBit

/-- `Seed(neg, sint, sfrac, rule, order)` (R100): canonical seeding for a near-zero seed, direct seeding
otherwise. Callers establish the precondition `admissible sd` (R100, R104). -/
def seedState (sd : SeedValue) (rule : Word) (o : Order) : Word :=
  if nearZero sd then evolveN rule o Config.warmup canonicalState else sd.int

end Sys2Proof.Machine
end

