-- ==== Sys2Proof/Machine/Ops.lean ====
section
/-!
DEFINITION. The named operations the commands share: emitting a sample, raising an error, starting an instance,
reseeding, the catch-up loop, the ramp, the reset event, and taking the host's next input.
-/

namespace Sys2Proof.Machine

/-- `emit(v)` (R11, R71): `v` stands on `out_data` with `out_valid` asserted. -/
def emit (v : Sfx) (s : State) : State := { s with out := some v }

/-- `raise Err(c)` (R172): the first cause is kept, a failed `INIT` clears `READY`, no other register changes
and nothing is emitted. There is no trap to take and none to return from (R182, R183): the error is recorded
here and cleared by `startInstance` or by reset (R179). -/
def raiseErr (c : Cause) (s : State) : State :=
  { s with
    err := if s.err = .noError then c else s.err
    ready := s.ready && !endsInstance c }

/-- The register writes every successful `INIT` makes (R120, R140, R150): the configuration is latched, the
automaton is seeded, `READY` is set and `ERR` cleared. `order` is the operand, whose low three bits are
latched; `o` is the same number as a legal width. -/
def startInstance (k : BitVec 2) (rule order : Word) (o : Order) (sd : SeedValue) (s : State) : State :=
  { s with
    rule := rule
    order := order.setWidth 3
    seed := sd
    kind := k
    cells := seedState sd rule o
    ready := true
    err := .noError }

/-- The further writes of `INIT.R` and `INIT.RR` (R120, R140): the ramp starts at the amplitude of the seeded
state. -/
def startRamp (s : State) : State :=
  { s with
    cv := toAmp s.cells
    tv := toAmp s.cells
    delta := 0
    pa := 0 }

/-- The reseed of an active trigger (R141): the latched seed again, and `PA` exactly 0. `CV`, `TV` and `DELTA`
are not written. The two faults stand where R95 and R100 define nothing (log 7, log 8). -/
def reseed (s : State) : Except Fault State :=
  match legalOrder s.order.toNat with
  | none => .error .orderUndefined
  | some o =>
    if admissible s.seed then .ok { s with cells := seedState s.seed s.rule o, pa := 0 }
    else .error .seedUndefined

/-- The registers the catch-up loop of `TICK` moves (R125). `pa` is the exact integer of the pseudocode; the
value left in it is stored into the 64-bit register when the loop ends (log 10). -/
structure LoopRegs where
  cells : Word
  tv    : Sfx
  delta : Sfx
  pa    : Int
  deriving DecidableEq, Repr

/-- One iteration of the loop body (R122 step 2, R125): one generation. `cv` does not change inside the
loop. -/
def generation (rule : Word) (o : Order) (cv : Sfx) (g : LoopRegs) : LoopRegs :=
  let next := evolve g.cells rule o
  { cells := next
    tv := toAmp next
    delta := sfxOfRaw ((toAmp next).toInt - cv.toInt)
    pa := g.pa + Config.one }

/-- `while PA < EPS_RAW` (R125), literally: the test before every iteration, with at most `fuel` iterations. -/
def catchUp (rule : Word) (o : Order) (cv : Sfx) : Nat → LoopRegs → LoopRegs
  | 0, g => g
  | fuel + 1, g =>
    if g.pa < (Config.epsRaw : Int) then catchUp rule o cv fuel (generation rule o cv g) else g

/-- The number of generations due from the value `pa` of the accumulator (R130): the closed form, 0 when no
generation is due. It is the fuel of `catchUp`, and exactly enough (log 11). -/
def generationsDue (pa : Int) : Nat :=
  (fdiv ((Config.epsRaw : Int) - pa + Config.one - 1) Config.one).toNat

/-- Steps 1 and 2 of a `TICK` that is not frozen (R124, R125): decrement the accumulator, then catch up. -/
def advance (mag : Nat) (s : State) : Except Fault State :=
  let pa1 := s.pa.toInt - (mag : Int)
  if pa1 < (Config.epsRaw : Int) then
    match legalOrder s.order.toNat with
    | none => .error .orderUndefined
    | some o =>
      let g := catchUp s.rule o s.cv (generationsDue pa1)
        { cells := s.cells, tv := s.tv, delta := s.delta, pa := pa1 }
      .ok { s with cells := g.cells, tv := g.tv, delta := g.delta, pa := sfxOfRaw g.pa }
  else .ok { s with pa := sfxOfRaw pa1 }

/-- `inc` (R127): the exact product brought back to `F` fraction bits, rounded toward minus infinity. -/
def rampInc (delta : Sfx) (mag : Nat) : Int := asr (delta.toInt * (mag : Int)) Config.fracBits

/-- Steps 3 to 5 of a `TICK` (R126 to R128): the current value moves by `inc` and is clamped with the direction
taken before it moved. -/
def ramp (mag : Nat) (s : State) : State :=
  let moved := s.cv.toInt + rampInc s.delta mag
  { s with cv := sfxOfRaw (if rising s.cv s.tv then min moved s.tv.toInt else max moved s.tv.toInt) }

/-- The reset event (R190, R191): `READY` = 0, `ERR` = 0, `out_valid` = 0, every other register unspecified
(R41): a free value for each, indexed by `fresh` (log 4). -/
def resetEvent (s : State) : State :=
  { s with
    cells := Config.unspecified .S s.fresh
    rule := Config.unspecified .RULE s.fresh
    order := Config.unspecified .ORDER s.fresh
    seed :=
      { neg := (Config.unspecified .SEED_NEG s.fresh) == 1#1
        int := Config.unspecified .SEED_INT s.fresh
        frac := Config.unspecified .SEED_FRAC s.fresh }
    kind := Config.unspecified .KIND s.fresh
    pa := Config.unspecified .PA s.fresh
    cv := Config.unspecified .CV s.fresh
    tv := Config.unspecified .TV s.fresh
    delta := Config.unspecified .DELTA s.fresh
    ready := false
    err := .noError
    out := none }

/-- What the host presents at this step; with nothing left to present it presents no command (R73, log 1). -/
def nextInput (s : State) : Input :=
  match s.inputs with
  | [] => .idle
  | x :: _ => x

/-- The start of a step: the input is taken, `out_valid` is 0 again (R71), and the free values move on. -/
def beginStep (s : State) : State :=
  { s with inputs := s.inputs.tail, out := none, fresh := s.fresh + 1 }

/-- `s` with the command `c` presented at its next step, before everything the host was to present. -/
def presentCommand (c : Command) (s : State) : State := { s with inputs := .command c :: s.inputs }

end Sys2Proof.Machine
end

