-- ==== Sys2Proof/Machine/Block.lean ====
section
/-!
DEFINITION. The block oscillator: `INIT.B` and `BSTEP` (spec/45_block.md).
-/

namespace Sys2Proof.Machine

/-- `INIT.B` (R150): the ramp registers are not written. -/
def execInitB (rule order : Word) (sd : SeedValue) (s : State) : Host.Outcome State Fault Refusal :=
  match checkInit order sd with
  | .error c => .next (raiseErr c s)
  | .ok o => .next (startInstance Config.kindBlock rule order o sd s)

/-- `BSTEP` (R151): one generation, whose amplitude is emitted. The fault stands where R95 defines nothing
(log 7). -/
def execBstep (s : State) : Host.Outcome State Fault Refusal :=
  if s.ready = false then .next (raiseErr .notReady s)
  else if s.kind ≠ Config.kindBlock then .next (raiseErr .kindMismatch s)
  else
    match legalOrder s.order.toNat with
    | none => .fault .orderUndefined
    | some o => .next (emit (toAmp (evolve s.cells s.rule o)) { s with cells := evolve s.cells s.rule o })

end Sys2Proof.Machine
end

