-- ==== Sys2Proof/Machine/Housekeeping.lean ====
section
/-!
DEFINITION. The housekeeping command `NOP` (spec/46_housekeeping.md).
-/

namespace Sys2Proof.Machine

/-- `NOP` (R160): no effect in any state. -/
def execNop (s : State) : Host.Outcome State Fault Refusal := .next s

end Sys2Proof.Machine
end

