-- ==== Sys2Proof/Machine/Ramp.lean ====
section
/-!
DEFINITION. The ramp oscillators: `INIT.R` and `TICK` (spec/43_ramp.md), `INIT.RR` and the trigger of `TICK`
(spec/44_resettable.md).
-/

namespace Sys2Proof.Machine

/-- `INIT.R` (R120). -/
def execInitR (rule order : Word) (sd : SeedValue) (s : State) : Host.Outcome State Fault Refusal :=
  match checkInit order sd with
  | .error c => .next (raiseErr c s)
  | .ok o => .next (startRamp (startInstance Config.kindRamp rule order o sd s))

/-- `INIT.RR` (R140). -/
def execInitRR (rule order : Word) (sd : SeedValue) (s : State) : Host.Outcome State Fault Refusal :=
  match checkInit order sd with
  | .error c => .next (raiseErr c s)
  | .ok o => .next (startRamp (startInstance Config.kindRRamp rule order o sd s))

/-- The trigger fragment of `TICK` (R141, R147): only kind `RRAMP` looks at `trig`. -/
def applyTrigger (trig : Sfx) (s : State) : Except Fault State :=
  if s.kind = Config.kindRRamp ∧ triggerActive trig = true then reseed s else .ok s

/-- Steps 3 to 6 (R126 to R129): the ramp, then the emission of the current value it leaves. -/
def finishTick (mag : Nat) (s : State) : State := emit (ramp mag s).cv (ramp mag s)

/-- `TICK` (R122): the `READY` and `KIND` checks, the frozen test, the trigger, then steps 1 to 6. -/
def execTick (speed trig : Sfx) (s : State) : Host.Outcome State Fault Refusal :=
  if s.ready = false then .next (raiseErr .notReady s)
  else if s.kind = Config.kindBlock then .next (raiseErr .kindMismatch s)
  else if frozen speed then .next (emit s.cv s)
  else
    match applyTrigger trig s with
    | .error f => .fault f
    | .ok s1 =>
      match advance (absSfx speed) s1 with
      | .error f => .fault f
      | .ok s2 => .next (finishTick (absSfx speed) s2)

end Sys2Proof.Machine
end

