-- ==== Sys2Proof/Machine/Dispatch.lean ====
section
/-!
DEFINITION. One arm per command of spec/opcode_table.json.
-/

namespace Sys2Proof.Machine

def exec (i : Instr) (s : State) : Host.Outcome State Fault Refusal :=
  match i with
  | .nop => Sys2Proof.Machine.execNop s
  | .initR rule order seed => Sys2Proof.Machine.execInitR rule order seed s
  | .initRR rule order seed => Sys2Proof.Machine.execInitRR rule order seed s
  | .initB rule order seed => Sys2Proof.Machine.execInitB rule order seed s
  | .tick speed trig => Sys2Proof.Machine.execTick speed trig s
  | .bstep => Sys2Proof.Machine.execBstep s

end Sys2Proof.Machine
end

