-- ==== Sys2Proof/Machine/Sequencer.lean ====
section
/-!
DEFINITION. What the engine does with one input of the host (spec/30_encoding.md R73, R84;
spec/70_reset_and_hazards.md R190, R191).
-/

namespace Sys2Proof.Machine

/-- An accepted command: decoded (R84), then executed; an illegal command word raises `ILLEGAL_CMD` with no
operand sampled (R77, R173). -/
def acceptCommand (c : Command) (s : State) : Host.Outcome State Fault Refusal :=
  match decode c with
  | .error _ => .next (raiseErr .illegalCmd s)
  | .ok i => exec i s

/-- One input: a command is executed, no command changes nothing (R73), `rst` gives the reset state (R190). -/
def takeInput (x : Input) (s : State) : Host.Outcome State Fault Refusal :=
  match x with
  | .command c => acceptCommand c s
  | .idle => .next s
  | .reset => .next (resetEvent s)

end Sys2Proof.Machine
end

