-- ==== Sys2Proof/Machine/Step.lean ====
section
/-!
DEFINITION. One step of the engine (spec/00_scope.md R12, R17, R18): the host's next input, taken whole.
-/

namespace Sys2Proof.Machine

/-- One step: the next input is taken and acted on, atomically (R12). -/
def step (s : State) : Host.Outcome State Fault Refusal := takeInput (nextInput s) (beginStep s)

/-- `s` with the command word `w` presented at the very next step, 0 on every operand port, before
everything else the host was to present (log 2). -/
def State.withFetchWord (s : State) (nbits w : Nat) : State :=
  presentCommand (commandOfTableWord nbits w) s

end Sys2Proof.Machine
end

