-- ==== Sys2Proof/Machine/Text.lean ====
section
/-!
DEFINITION. The textual form of commands (spec/30_encoding.md R82) and the pseudo-commands (R83), which have no
encoding of their own.
-/

namespace Sys2Proof.Machine

/-- A `<real>` of R82: a signed decimal literal (`digits / 10^scale`) or `raw:<integer>`. -/
inductive Literal where
  | decimal (neg : Bool) (digits scale : Nat)
  | raw (neg : Bool) (mag : Nat)
  deriving DecidableEq, Repr

/-- The raw `sfx` integer of a literal for `speed` or `trig` (R82): `sign(x) * floor(|x| * 2^32)`. -/
def literalRaw : Literal → Int
  | .decimal neg digits scale =>
    let m : Int := (digits * 2 ^ Config.fracBits / 10 ^ scale : Nat)
    if neg then -m else m
  | .raw neg mag => if neg then -(mag : Int) else mag

/-- The `sfx` word of a literal; `none` where it is out of the port's range (R80). -/
def literalSfx (l : Literal) : Option Sfx :=
  if -(2 ^ 63) ≤ literalRaw l ∧ literalRaw l < 2 ^ 63 then some (sfxOfRaw (literalRaw l)) else none

/-- The seed with the given magnitude, `whole + fraction / 2^32`; `none` where it is 2^64 or more (R79). -/
def seedOfParts (neg : Bool) (whole fraction : Nat) : Option SeedValue :=
  if whole < 2 ^ 64 then some { neg := neg, int := BitVec.ofNat 64 whole, frac := BitVec.ofNat 32 fraction }
  else none

/-- The seed a literal stands for (R82). -/
def literalSeed : Literal → Option SeedValue
  | .decimal neg digits scale =>
    seedOfParts neg (digits / 10 ^ scale) (digits % 10 ^ scale * 2 ^ 32 / 10 ^ scale)
  | .raw neg mag => seedOfParts neg (mag / 2 ^ 32) (mag % 2 ^ 32)

/-- One line of the textual form (R82, R83): a command or a pseudo-command. -/
inductive Line where
  | command (i : Instr)
  | hold
  | block (n : Nat) (speed : Sfx)
  | blockr (speed : Sfx) (trigs : List Sfx)
  | retrig (speed : Sfx)
  deriving DecidableEq, Repr

/-- The expansion of a line (R83). -/
def expandLine : Line → List Instr
  | .command i => [i]
  | .hold => [.tick 0 0]
  | .block n speed => List.replicate n (.tick speed 0)
  | .blockr speed trigs => trigs.map (fun t => .tick speed t)
  | .retrig speed => [.tick speed (sfxOfRaw Config.one)]

/-- The inputs that present the commands of a program one after another. -/
def inputsOf (p : List Instr) : List Input := p.map (fun i => .command (encode i))

/-- The value of a digit in base 16; bases below reject the larger values. -/
def digitValue (c : Char) : Option Nat :=
  if '0' ≤ c ∧ c ≤ '9' then some (c.toNat - '0'.toNat)
  else if 'a' ≤ c ∧ c ≤ 'f' then some (c.toNat - 'a'.toNat + 10)
  else if 'A' ≤ c ∧ c ≤ 'F' then some (c.toNat - 'A'.toNat + 10)
  else none

/-- The number that a run of digits stands for, after the digits already read. -/
def readDigits (base : Nat) : Nat → List Char → Option Nat
  | acc, [] => some acc
  | acc, c :: cs =>
    match digitValue c with
    | none => none
    | some d => if d < base then readDigits base (acc * base + d) cs else none

/-- A non-empty run of digits. -/
def readNumber (base : Nat) (cs : List Char) : Option Nat :=
  if cs.isEmpty then none else readDigits base 0 cs

/-- What follows a prefix. -/
def afterPrefix : List Char → List Char → Option (List Char)
  | [], cs => some cs
  | _ :: _, [] => none
  | p :: ps, c :: cs => if p = c then afterPrefix ps cs else none

/-- `<u64>` (R82): a decimal or `0x` hexadecimal integer below 2^64. DESIGN CHOICE: leading zeros are
allowed (log 17). -/
def readU64 (cs : List Char) : Option Word :=
  let n :=
    match afterPrefix ['0', 'x'] cs with
    | some hex => readNumber 16 hex
    | none => readNumber 10 cs
  match n with
  | some v => if v < 2 ^ 64 then some (BitVec.ofNat 64 v) else none
  | none => none

/-- A leading minus sign, and what follows it. DESIGN CHOICE (safe): R82 does not say whether a signed decimal
literal or the integer of `raw:` may carry a leading plus sign; only a minus is read here, so that a literal with
a plus is refused (log 17). -/
def readSign (cs : List Char) : Bool × List Char :=
  match afterPrefix ['-'] cs with
  | some rest => (true, rest)
  | none => (false, cs)

/-- `<real>` (R82). DESIGN CHOICE: a decimal point has a digit on each side (log 17). -/
def readReal (cs : List Char) : Option Literal :=
  match afterPrefix "raw:".toList cs with
  | some rest => (readNumber 10 (readSign rest).2).map (Literal.raw (readSign rest).1)
  | none =>
    let whole := (readSign cs).2.takeWhile (· ≠ '.')
    match (readSign cs).2.dropWhile (· ≠ '.') with
    | [] => (readNumber 10 whole).map (fun n => .decimal (readSign cs).1 n 0)
    | _ :: frac =>
      if whole.isEmpty ∨ frac.isEmpty then none
      else (readNumber 10 (whole ++ frac)).map (fun n => .decimal (readSign cs).1 n frac.length)

/-- A `<real>` for `speed` or `trig`. -/
def readSfx (cs : List Char) : Option Sfx := (readReal cs).bind literalSfx

/-- A `<real>` for `seed`. -/
def readSeed (cs : List Char) : Option SeedValue := (readReal cs).bind literalSeed

/-- The operands of a line, between commas. -/
def splitCommas : List Char → List (List Char)
  | [] => [[]]
  | c :: cs =>
    match splitCommas cs with
    | [] => [[]]
    | x :: xs => if c = ',' then [] :: x :: xs else (c :: x) :: xs

/-- The operands `rule=<u64>, order=<u64>, seed=<real>` of an `INIT` (R82). -/
def readInit (make : Word → Word → SeedValue → Instr) (args : List (List Char)) : Option Line :=
  match args with
  | [r, o, sd] =>
    match (afterPrefix "rule=".toList r).bind readU64, (afterPrefix "order=".toList o).bind readU64,
        (afterPrefix "seed=".toList sd).bind readSeed with
    | some rule, some order, some seed => some (.command (make rule order seed))
    | _, _, _ => none
  | _ => none

/-- The operand `speed=<real>`. -/
def readSpeed (cs : List Char) : Option Sfx := (afterPrefix "speed=".toList cs).bind readSfx

/-- The operands `speed=<real>[, trig=<real>]` of a `TICK`; an omitted `trig` is `raw:0` (R82). -/
def readTick (args : List (List Char)) : Option Line :=
  match args with
  | [sp] => (readSpeed sp).map (fun speed => .command (.tick speed 0))
  | [sp, tr] =>
    match readSpeed sp, (afterPrefix "trig=".toList tr).bind readSfx with
    | some speed, some trig => some (.command (.tick speed trig))
    | _, _ => none
  | _ => none

/-- The operands `n, speed=<real>` of `BLOCK` (R83). -/
def readBlock (args : List (List Char)) : Option Line :=
  match args with
  | [n, sp] =>
    match readNumber 10 n, readSpeed sp with
    | some count, some speed => some (.block count speed)
    | _, _ => none
  | _ => none

/-- Every operand of a list, if each reads. -/
def readAll (read : List Char → Option Sfx) : List (List Char) → Option (List Sfx)
  | [] => some []
  | x :: xs =>
    match read x, readAll read xs with
    | some v, some vs => some (v :: vs)
    | _, _ => none

/-- The operands `speed=<real>, trig=[t0, ..., t(n-1)]` of `BLOCKR` (R83). -/
def readBlockr (cs : List Char) : Option Line :=
  let speed := cs.takeWhile (· ≠ ',')
  match afterPrefix ",trig=[".toList (cs.dropWhile (· ≠ ',')) with
  | none => none
  | some rest =>
    match rest.dropWhile (· ≠ ']') with
    | [']'] =>
      let items := rest.takeWhile (· ≠ ']')
      match readSpeed speed, (if items.isEmpty then some [] else readAll readSfx (splitCommas items)) with
      | some sp, some trigs => some (.blockr sp trigs)
      | _, _ => none
    | _ => none

/-- A blank between the words of a line (DESIGN CHOICE: a space, a tab or a carriage return; log 17). -/
def isBlank (c : Char) : Bool := c == ' ' || c == '\t' || c == '\r'

/-- A line by its mnemonic and its operands, the operands without blanks (R82, R83). -/
def readMnemonic (name rest : List Char) : Option Line :=
  if name = "NOP".toList then if rest.isEmpty then some (.command .nop) else none
  else if name = "BSTEP".toList then if rest.isEmpty then some (.command .bstep) else none
  else if name = "HOLD".toList then if rest.isEmpty then some .hold else none
  else if name = "INIT.R".toList then readInit .initR (splitCommas rest)
  else if name = "INIT.RR".toList then readInit .initRR (splitCommas rest)
  else if name = "INIT.B".toList then readInit .initB (splitCommas rest)
  else if name = "TICK".toList then readTick (splitCommas rest)
  else if name = "BLOCK".toList then readBlock (splitCommas rest)
  else if name = "BLOCKR".toList then readBlockr rest
  else if name = "RETRIG".toList then (readSpeed rest).map .retrig
  else none

/-- The commands of one line of text (R82): nothing for an empty line or a comment, `none` for a line that is
not of the form. -/
def readLine (cs : List Char) : Option (List Instr) :=
  let code := (cs.takeWhile (· ≠ ';')).dropWhile isBlank
  if code.isEmpty then some []
  else
    (readMnemonic (code.takeWhile (fun c => !isBlank c))
      ((code.dropWhile (fun c => !isBlank c)).filter (fun c => !isBlank c))).map expandLine

end Sys2Proof.Machine
end

