-- ==== Sys2Proof/Machine/Ports.lean ====
section
/-!
DEFINITION. The output ports of the engine (spec/30_encoding.md R70), as views of the state between steps.
-/

namespace Sys2Proof.Machine

/-- The status ports (R43, R70): every register is readable between commands, without side effect. A register
that nothing has written since reset reads as the value it was left with (log 5). -/
def statusPort (s : State) : (r : Reg) → BitVec r.width
  | .S => s.cells
  | .RULE => s.rule
  | .ORDER => s.order
  | .SEED_NEG => BitVec.ofBool s.seed.neg
  | .SEED_INT => s.seed.int
  | .SEED_FRAC => s.seed.frac
  | .KIND => s.kind
  | .PA => s.pa
  | .CV => s.cv
  | .TV => s.tv
  | .DELTA => s.delta
  | .READY => BitVec.ofBool s.ready
  | .ERR => causeCode s.err

/-- `err_o` (R180): 1 exactly when `ERR` is not 0. -/
def errO (s : State) : Bool := statusPort s .ERR != (0 : BitVec 3)

/-- `out_valid` (R71). -/
def outValid (s : State) : Bool := s.out.isSome

/-- `out_data` (R71): the emitted sample, and a free value while `out_valid` = 0 (U8, log 15). -/
def outData (s : State) : Sfx :=
  match s.out with
  | some v => v
  | none => Config.idleOutData s.fresh

/-- `cmd_ready` (R73, R172, R190): between steps the engine can always accept a command; no error locks it
up. -/
def cmdReady (_s : State) : Bool := true

end Sys2Proof.Machine
end

