-- ==== Sys2Proof/Safety.lean ====
section
/-!
DEFINITION. What counts as a safe run: the invariants of an initialised engine (spec/10_state.md R33), the host's
obligations (spec/70_reset_and_hazards.md R195), and what a run shows (spec/00_scope.md R18).
-/

namespace Sys2Proof.Machine

/-- The latched configuration of an initialised engine: `ORDER` in 1..6 (R23), `KIND` not 3 (R20, U9), a seed
that `INIT` accepts (R24). -/
abbrev State.ConfigOk (s : State) : Prop :=
  1 ≤ s.order.toNat ∧ s.order.toNat ≤ 6 ∧ s.kind ≠ 3 ∧ admissible s.seed = true

/-- The five items of R33, as raw integers. -/
abbrev State.RampBounds (s : State) : Prop :=
  (-Config.one ≤ s.tv.toInt ∧ s.tv.toInt ≤ Config.one) ∧
  (-Config.one ≤ s.cv.toInt ∧ s.cv.toInt < 3 * Config.one) ∧
  (-4 * Config.one < s.delta.toInt ∧ s.delta.toInt ≤ 2 * Config.one) ∧
  (s.pa = 0 ∨ ((Config.epsRaw : Int) ≤ s.pa.toInt ∧ s.pa.toInt < Config.one + Config.epsRaw)) ∧
  ((s.delta.toInt < 0 → s.tv.toInt ≤ s.cv.toInt) ∧ (s.delta.toInt = 0 → s.cv = s.tv))

/-- What the proof of R134 carries from tick to tick and R33 does not say: the target is the amplitude of the
automaton state (R28), a rising basis started at -1.0 or above, and a rising ramp has passed its target by no
more than the basis times the part of the generation already spent. -/
abbrev State.RampHistory (s : State) : Prop :=
  s.tv = toAmp s.cells ∧
  (0 < s.delta.toInt →
    s.delta.toInt ≤ s.tv.toInt + Config.one ∧
    Config.one * (s.cv.toInt - s.tv.toInt) ≤
      s.delta.toInt * (Config.one + Config.epsRaw - 1 - s.pa.toInt))

/-- The invariant of the engine: an initialised instance has a legal configuration, and the ramp kinds keep
their bounds (R33, R132, R134). Nothing is asked while `READY` = 0. -/
abbrev State.Inv (s : State) : Prop :=
  s.ready = true → s.ConfigOk ∧ (s.kind ≠ Config.kindBlock → s.RampBounds ∧ s.RampHistory)

/-- The operands of an `INIT` that succeeds (R174, R175): the order in 1..6 on all 64 bits, the seed not negative
or near zero. -/
def initOk (order : Word) (sd : SeedValue) : Bool :=
  decide (1 ≤ order.toNat) && decide (order.toNat ≤ 6) && admissible sd

/-- The host's obligations for one command (R192, R195 items 1 and 2): an `INIT` with an order in 1..6 and a
seed that is non-negative or near zero, a `TICK` only on a ready ramp kind, a `BSTEP` only on a ready block
kind. `NOP` is always permitted (R160). -/
def State.permits (s : State) : Instr → Bool
  | .nop => true
  | .initR _ order seed => initOk order seed
  | .initRR _ order seed => initOk order seed
  | .initB _ order seed => initOk order seed
  | .tick _ _ => s.ready && s.kind != Config.kindBlock
  | .bstep => s.ready && s.kind == Config.kindBlock

/-- An initialised engine of a ramp kind: what `TICK` asks for (R176, R177). -/
abbrev State.RampReady (s : State) : Prop := s.ready = true ∧ s.kind ≠ Config.kindBlock

/-- An initialised engine of kind `BLOCK`: what `BSTEP` asks for (R176, R177). -/
abbrev State.BlockReady (s : State) : Prop := s.ready = true ∧ s.kind = Config.kindBlock

/-- An `INIT` that succeeds: the only command that writes the configuration (R161). -/
def configures : Instr → Bool
  | .nop => false
  | .initR _ order seed => initOk order seed
  | .initRR _ order seed => initOk order seed
  | .initB _ order seed => initOk order seed
  | .tick _ _ => false
  | .bstep => false

/-- One of the three `INIT`s, whether it succeeds or not. -/
def isInit : Instr → Bool
  | .nop => false
  | .initR _ _ _ => true
  | .initRR _ _ _ => true
  | .initB _ _ _ => true
  | .tick _ _ => false
  | .bstep => false

/-- A command that emits a sample on its successful path (R71). -/
def emitsSample : Instr → Bool
  | .nop => false
  | .initR _ _ _ => false
  | .initRR _ _ _ => false
  | .initB _ _ _ => false
  | .tick _ _ => true
  | .bstep => true

/-- The command the engine accepts at the next step of `s`, if there is one and its word is legal. -/
abbrev Accepts (s : State) (i : Instr) : Prop := ∃ c, nextInput s = .command c ∧ decode c = .ok i

/-- The samples emitted by the first `k` steps of a run, oldest first (R18). -/
def emissions : Nat → State → List Sfx
  | 0, _ => []
  | k + 1, s =>
    match step s with
    | .next t => t.out.toList ++ emissions k t
    | .fault _ => []
    | .refused _ => []

/-- Two states that no command tells apart (R41, R201): the same inputs to come, the same port and status, the
same configuration and cells once ready, the same ramp registers once ready in a ramp kind. -/
abbrev State.Agrees (s t : State) : Prop :=
  s.inputs = t.inputs ∧ s.out = t.out ∧ s.ready = t.ready ∧ s.err = t.err ∧
  (s.ready = true →
    s.cells = t.cells ∧ s.rule = t.rule ∧ s.order = t.order ∧ s.seed = t.seed ∧ s.kind = t.kind ∧
    (s.kind ≠ Config.kindBlock → s.pa = t.pa ∧ s.cv = t.cv ∧ s.tv = t.tv ∧ s.delta = t.delta))

end Sys2Proof.Machine
end

