-- ==== Sys2Proof/Certificates/Slice0/Obligations.lean ====
section
/-!
DEFINITION. The statements for the provers. Each cites the rules of spec/ it formalises. Numbers are written out:
512 is `EPS_RAW`, 4294967296 is `ONE`. The fields `inputs` (log 1) and `fresh` (log 4) are the model's own, and `out`
is the output port for one step (log 15): what a statement says of them is the model's choice, not a rule's.
-/

open Sys2Proof Sys2Proof.Machine

/-! ### Encoding (spec/30_encoding.md) -/

/-- R73, R74, R75, R84: whatever stands on the ports a command does not use, decoding what the encoder writes
gives the instruction back, with every operand; and a word decodes to an instruction only if the encoder writes
exactly that word and those operands. -/
def Obligations.DecodeAndEncodeAgree : Prop :=
  (∀ (d : Command) (i : Instr), i.wellFormed = true → decode (encodeOver d i) = .ok i) ∧
  (∀ (c : Command) (i : Instr), decode c = .ok i → encodeOver c i = c)

/-- R75: exactly six values of `cw` are commands, and which command each is, with the operands it samples. -/
def Obligations.SixCommandWords : Prop :=
  ∀ c : Command,
    (c.cw = 0x00 → decode c = .ok .nop) ∧
    (c.cw = 0x01 → decode c = .ok (.initR c.rule c.order c.seed)) ∧
    (c.cw = 0x09 → decode c = .ok (.initRR c.rule c.order c.seed)) ∧
    (c.cw = 0x11 → decode c = .ok (.initB c.rule c.order c.seed)) ∧
    (c.cw = 0x02 → decode c = .ok (.tick c.speed c.trig)) ∧
    (c.cw = 0x03 → decode c = .ok .bstep) ∧
    (c.cw ≠ 0x00 ∧ c.cw ≠ 0x01 ∧ c.cw ≠ 0x09 ∧ c.cw ≠ 0x11 ∧ c.cw ≠ 0x02 ∧ c.cw ≠ 0x03 →
      ∃ e, decode c = .error e)

/-- R74, R77: a command word decodes exactly when it has none of the four illegal shapes (`cw[7:5]` not 0, `op`
in 4 to 7, `op` = 1 with `kind` = 3, `kind` not 0 with another `op`), written by division of the word. -/
def Obligations.DecodesExactlyTheWellFormedWords : Prop :=
  ∀ c : Command, (∃ i, decode c = .ok i) ↔ c.wellFormed = true

/-- R75, on the words of the opcode table: a sanity statement. -/
def Obligations.TableWordsDecode : Prop :=
  decodeTableWord 8 0x00 = some .nop ∧
  decodeTableWord 8 0x01 = some (.initR 0 0 ⟨false, 0, 0⟩) ∧
  decodeTableWord 8 0x09 = some (.initRR 0 0 ⟨false, 0, 0⟩) ∧
  decodeTableWord 8 0x11 = some (.initB 0 0 ⟨false, 0, 0⟩) ∧
  decodeTableWord 8 0x02 = some (.tick 0 0) ∧
  decodeTableWord 8 0x03 = some .bstep ∧
  decodeTableWord 8 0x19 = none

/-! ### One step (spec/00_scope.md R12, R18; spec/30_encoding.md R73) -/

/-- R12, R73, R84: when the host presents a command whose word is legal, the step is that command, executed with
the input taken and the output port idle. -/
def Obligations.StepRunsTheDecodedCommand : Prop :=
  ∀ (s : State) (c : Command) (rest : List Input) (i : Instr),
    s.inputs = .command c :: rest → decode c = .ok i →
    step s = exec i { s with inputs := rest, out := none, fresh := s.fresh + 1 }

/-- R77, R173: every command word but the six records `ILLEGAL_CMD` if nothing was recorded before, emits nothing
and changes no other register, in every state and whatever stands on the operand ports. -/
def Obligations.IllegalWordOnlyRecordsItsCause : Prop :=
  ∀ (s : State) (c : Command) (rest : List Input),
    s.inputs = .command c :: rest →
    c.cw ≠ 0x00 ∧ c.cw ≠ 0x01 ∧ c.cw ≠ 0x09 ∧ c.cw ≠ 0x11 ∧ c.cw ≠ 0x02 ∧ c.cw ≠ 0x03 →
    step s = .next
      { s with
        inputs := rest
        out := none
        fresh := s.fresh + 1
        err := if s.err = .noError then .illegalCmd else s.err }

/-- R73: with `cmd_valid` = 0 nothing happens: every status port reads as before and nothing is emitted. That a
register nothing has written yet also reads as before is the model's choice (log 5). -/
def Obligations.NoCommandChangesNoRegister : Prop :=
  ∀ s : State, s.inputs = [] ∨ (∃ rest, s.inputs = .idle :: rest) →
    ∃ t, step s = .next t ∧ (∀ r : Reg, statusPort t r = statusPort s r) ∧ outValid t = false ∧
      t.inputs = s.inputs.tail

/-- R190, R191: the reset event, in every state, gives `READY` = 0, `ERR` = 0 and `out_valid` = 0, whatever the
other registers hold afterwards; and so does the model's state after power-on (log 3). -/
def Obligations.ResetClearsReadyAndErr : Prop :=
  (∀ (s : State) (rest : List Input), s.inputs = .reset :: rest →
    ∃ t, step s = .next t ∧ statusPort t .READY = 0 ∧ statusPort t .ERR = 0 ∧ outValid t = false ∧
      cmdReady t = true ∧ t.inputs = rest) ∧
  (statusPort State.reset .READY = 0 ∧ statusPort State.reset .ERR = 0 ∧ outValid State.reset = false)

/-! ### Errors (spec/60_exceptions.md) -/

/-- R172: what `raise Err(c)` does to the state. -/
def Obligations.RaisingKeepsTheFirstCause : Prop :=
  ∀ (c : Cause) (s : State),
    raiseErr c s =
      { s with
        err := if s.err = .noError then c else s.err
        ready := if c = .orderRange ∨ c = .seedNegative then false else s.ready }

/-- R174: an `INIT` whose 64-bit `order` operand is not in 1..6 fails, whatever the seed: `READY` is cleared, the
cause is recorded if none was, and no other register changes. -/
def Obligations.OrderOutOfRangeFailsInit : Prop :=
  ∀ (rule order : Word) (seed : SeedValue) (s : State), (order.toNat < 1 ∨ 6 < order.toNat) →
    let t := { s with ready := false, err := if s.err = .noError then .orderRange else s.err }
    exec (.initR rule order seed) s = .next t ∧
    exec (.initRR rule order seed) s = .next t ∧
    exec (.initB rule order seed) s = .next t

/-- R175: an `INIT` with a legal order and a negative seed that is not near zero fails in the same way; a
negative seed that is near zero is not an error, and seeds canonically. -/
def Obligations.NegativeSeedFailsInit : Prop :=
  ∀ (rule order : Word) (seed : SeedValue) (s : State) (o : Order), o.val = order.toNat → seed.neg = true →
    (seed.int ≠ 0 ∨ 512 ≤ seed.frac.toNat →
      let t := { s with ready := false, err := if s.err = .noError then .seedNegative else s.err }
      exec (.initR rule order seed) s = .next t ∧
      exec (.initRR rule order seed) s = .next t ∧
      exec (.initB rule order seed) s = .next t) ∧
    (seed.int = 0 ∧ seed.frac.toNat < 512 →
      ∀ i ∈ [Instr.initR rule order seed, Instr.initRR rule order seed, Instr.initB rule order seed],
        ∃ t, exec i s = .next t ∧ t.ready = true ∧ t.err = .noError ∧
          t.cells = (fun x => evolve x rule o)^[32] 0x8000)

/-- R176: `TICK` and `BSTEP` while `READY` = 0 are refused, whatever the operands and whatever `KIND` holds. -/
def Obligations.NotReadyRefusesProcessing : Prop :=
  ∀ (speed trig : Sfx) (s : State), s.ready = false →
    let t := { s with err := if s.err = .noError then .notReady else s.err }
    exec (.tick speed trig) s = .next t ∧ exec .bstep s = .next t

/-- R177: with `READY` = 1, `TICK` in kind `BLOCK` and `BSTEP` in the kinds `RAMP` and `RRAMP` are refused. -/
def Obligations.WrongKindRefusesProcessing : Prop :=
  ∀ (speed trig : Sfx) (s : State), s.ready = true →
    let t := { s with err := if s.err = .noError then .kindMismatch else s.err }
    (s.kind = 2 → exec (.tick speed trig) s = .next t) ∧
    (s.kind = 0 ∨ s.kind = 1 → exec .bstep s = .next t)

/-- R178: the first cause that applies is the one reported: an illegal word before any state is looked at, the
order before the seed, `NOT_READY` before `KIND_MISMATCH`. -/
def Obligations.ErrorPriority : Prop :=
  ∀ s : State, s.err = .noError →
    (∀ c : Command, s.inputs.head? = some (.command c) → c.wellFormed = false →
      ∃ t, step s = .next t ∧ t.err = .illegalCmd) ∧
    (∀ (rule order : Word) (seed : SeedValue) (i : Instr),
      i ∈ [Instr.initR rule order seed, Instr.initRR rule order seed, Instr.initB rule order seed] →
      (order.toNat < 1 ∨ 6 < order.toNat → ∃ t, exec i s = .next t ∧ t.err = .orderRange) ∧
      (1 ≤ order.toNat ∧ order.toNat ≤ 6 ∧ admissible seed = false →
        ∃ t, exec i s = .next t ∧ t.err = .seedNegative)) ∧
    (∀ (speed trig : Sfx) (i : Instr), i ∈ [Instr.tick speed trig, Instr.bstep] →
      (s.ready = false → ∃ t, exec i s = .next t ∧ t.err = .notReady) ∧
      (s.ready = true ∧ s.permits i = false → ∃ t, exec i s = .next t ∧ t.err = .kindMismatch))

/-- R179: once a cause is recorded, a step clears it exactly when it is a reset or a successful `INIT`, and no
step replaces it by another cause. -/
def Obligations.OnlyResetAndInitClearErr : Prop :=
  ∀ s t : State, step s = .next t → s.err ≠ .noError →
    (t.err = .noError ↔ nextInput s = .reset ∨ ∃ i, Accepts s i ∧ configures i = true) ∧
    (t.err = .noError ∨ t.err = s.err)

/-- R171, R180: `err_o` is 1 exactly when the register `ERR` is not 0, and `ERR` never holds 6 or 7. -/
def Obligations.ErrorOutputFollowsErr : Prop :=
  ∀ s : State, (errO s = true ↔ s.err ≠ .noError) ∧ statusPort s .ERR ≠ (6 : BitVec 3) ∧
    statusPort s .ERR ≠ (7 : BitVec 3)

/-- R172, R195: a command the host may not issue records a cause and has no other effect on the state than, for
an `INIT`, to clear `READY`; no precondition on the state. -/
def Obligations.UnpermittedCommandIsRefusedWhole : Prop :=
  ∀ (i : Instr) (s : State), s.permits i = false →
    ∃ c, c ≠ .noError ∧
      exec i s = .next
        { s with
          err := if s.err = .noError then c else s.err
          ready := if isInit i = true then false else s.ready }

/-- R192, R195: a command the host may issue completes and records no error; all but `NOP` leave the engine
ready. -/
def Obligations.PermittedCommandCompletes : Prop :=
  ∀ (i : Instr) (s : State), s.Inv → s.permits i = true →
    ∃ t, exec i s = .next t ∧ t.err = (if isInit i = true then .noError else s.err) ∧
      t.ready = (if i = .nop then s.ready else true)

/-! ### Evolve (spec/40_automaton.md) -/

/-- R91: every cell's next value is the rule-table bit selected by the `order` cells that start one position
behind it, the cell behind having the lowest weight. -/
def Obligations.EvolveCellByCell : Prop :=
  ∀ (s rule : Word) (o : Order) (i : Nat), i < 64 →
    (evolve s rule o).getLsbD i =
      rule.getLsbD (∑ j ∈ Finset.range o.val, if s.getLsbD ((i + 63 + j) % 64) then 2 ^ j else 0)

/-- R92: the low `2^order` bits of the rule table are addressed, each of them in some state and whatever the
others hold, and no other bit ever is. -/
def Obligations.HighRuleBitsAreInert : Prop :=
  (∀ (s r1 r2 : Word) (o : Order), r1.toNat % 2 ^ 2 ^ o.val = r2.toNat % 2 ^ 2 ^ o.val →
    evolve s r1 o = evolve s r2 o) ∧
  (∀ (o : Order) (k : Nat), k < 2 ^ o.val →
    ∃ s : Word, ∀ r : Word, evolve s (r ^^^ ((1 : Word) <<< k)) o ≠ evolve s r o)

/-- R96: the uniform states, and the all-zero rule table. -/
def Obligations.UniformStatesStayUniform : Prop :=
  ∀ (rule : Word) (o : Order),
    evolve 0 rule o = (if rule.getLsbD 0 then BitVec.allOnes 64 else 0) ∧
    evolve (BitVec.allOnes 64) rule o = (if rule.getLsbD (2 ^ o.val - 1) then BitVec.allOnes 64 else 0) ∧
    ∀ s : Word, evolve s 0 o = 0

/-- R97: the ring has no distinguished cell; `rotl64(v, k)` is `rotr64(v, (64 - k) mod 64)`. -/
def Obligations.EvolveCommutesWithRotation : Prop :=
  ∀ (s rule : Word) (o : Order) (k : Nat), k < 64 →
    evolve (rotr64 s ((64 - k) % 64)) rule o = rotr64 (evolve s rule o) ((64 - k) % 64)

/-! ### Seed (spec/41_seeder.md) -/

/-- R101, R105: a seed of magnitude below `EPS`, of either sign, gives the canonical state evolved 32 times;
every other seed gives its integer part. -/
def Obligations.SeedTakesItsTwoBranches : Prop :=
  ∀ (sd : SeedValue) (rule : Word) (o : Order),
    (sd.int = 0 ∧ sd.frac.toNat < 512 → seedState sd rule o = (fun x => evolve x rule o)^[32] 0x8000) ∧
    (sd.int ≠ 0 ∨ 512 ≤ sd.frac.toNat → seedState sd rule o = sd.int)

/-- R103: what an `INIT` latches reseeds to the state it left. -/
def Obligations.LatchedSeedRestoresTheSeededState : Prop :=
  ∀ (i : Instr) (s t : State), isInit i = true → exec i s = .next t → t.ready = true →
    ∃ o : Order, o.val = t.order.toNat ∧ seedState t.seed t.rule o = t.cells ∧ admissible t.seed = true

/-! ### ToAmp (spec/42_mapper.md) -/

/-- R111: both endpoints are reached exactly and no state maps outside them. -/
def Obligations.AmplitudeRange : Prop :=
  (toAmp 0).toInt = -4294967296 ∧ (toAmp (BitVec.allOnes 64)).toInt = 4294967296 ∧
  ∀ s : Word, -4294967296 ≤ (toAmp s).toInt ∧ (toAmp s).toInt ≤ 4294967296

/-- R112: monotonic, not strictly, and onto the 2^33 + 1 values of the range. -/
def Obligations.AmplitudeIsMonotonic : Prop :=
  (∀ s1 s2 : Word, s1.toNat ≤ s2.toNat → (toAmp s1).toInt ≤ (toAmp s2).toInt) ∧
  (∃ s1 s2 : Word, s1.toNat < s2.toNat ∧ toAmp s1 = toAmp s2) ∧
  (∀ v : Int, -4294967296 ≤ v ∧ v ≤ 4294967296 → ∃ s : Word, (toAmp s).toInt = v)

/-- R113: the closed form, its one exception, and the cell that decides the sign. -/
def Obligations.AmplitudeClosedForm : Prop :=
  ∀ s : Word,
    (s ≠ BitVec.allOnes 64 → (toAmp s).toInt = (s >>> 31).toNat - 4294967296) ∧
    (s = BitVec.allOnes 64 → (toAmp s).toInt = 4294967296) ∧
    (0 ≤ (toAmp s).toInt ↔ s.getLsbD 63 = true)

/-! ### INIT and NOP -/

/-- R160: the word `0x00` is `NOP` whatever the operand ports hold, and `NOP` has no effect in any state. -/
def Obligations.NopHasNoEffect : Prop :=
  (∀ c : Command, c.cw = 0x00 → decode c = .ok .nop) ∧ ∀ s : State, exec .nop s = .next s

/-- R120: `INIT.R`, in every state. It fails with `ORDER_RANGE`, then with `SEED_NEGATIVE`, changing only `READY`
and `ERR`; with an order in 1..6 and a seed that is not negative or is near zero every register is written,
nothing else of the state changes and nothing is emitted. -/
def Obligations.InitRStartsARamp : Prop :=
  (∀ c : Command, c.cw = 0x01 → decode c = .ok (.initR c.rule c.order c.seed)) ∧
  ∀ (rule order : Word) (seed : SeedValue) (s : State),
    (order.toNat < 1 ∨ 6 < order.toNat →
      exec (.initR rule order seed) s = .next
        { s with ready := false, err := if s.err = .noError then .orderRange else s.err }) ∧
    (1 ≤ order.toNat ∧ order.toNat ≤ 6 ∧ seed.neg = true ∧ (seed.int ≠ 0 ∨ 512 ≤ seed.frac.toNat) →
      exec (.initR rule order seed) s = .next
        { s with ready := false, err := if s.err = .noError then .seedNegative else s.err }) ∧
    (∀ o : Order, o.val = order.toNat → (seed.neg = false ∨ (seed.int = 0 ∧ seed.frac.toNat < 512)) →
      exec (.initR rule order seed) s = .next
        { s with
          rule := rule
          order := BitVec.ofNat 3 o.val
          seed := seed
          kind := 0
          cells := seedState seed rule o
          cv := toAmp (seedState seed rule o)
          tv := toAmp (seedState seed rule o)
          delta := 0
          pa := 0
          ready := true
          err := .noError })

/-- R140: `INIT.RR`, in every state: as `INIT.R` but for `KIND` = 1. -/
def Obligations.InitRRStartsAResettableRamp : Prop :=
  (∀ c : Command, c.cw = 0x09 → decode c = .ok (.initRR c.rule c.order c.seed)) ∧
  ∀ (rule order : Word) (seed : SeedValue) (s : State),
    (order.toNat < 1 ∨ 6 < order.toNat →
      exec (.initRR rule order seed) s = .next
        { s with ready := false, err := if s.err = .noError then .orderRange else s.err }) ∧
    (1 ≤ order.toNat ∧ order.toNat ≤ 6 ∧ seed.neg = true ∧ (seed.int ≠ 0 ∨ 512 ≤ seed.frac.toNat) →
      exec (.initRR rule order seed) s = .next
        { s with ready := false, err := if s.err = .noError then .seedNegative else s.err }) ∧
    (∀ o : Order, o.val = order.toNat → (seed.neg = false ∨ (seed.int = 0 ∧ seed.frac.toNat < 512)) →
      exec (.initRR rule order seed) s = .next
        { s with
          rule := rule
          order := BitVec.ofNat 3 o.val
          seed := seed
          kind := 1
          cells := seedState seed rule o
          cv := toAmp (seedState seed rule o)
          tv := toAmp (seedState seed rule o)
          delta := 0
          pa := 0
          ready := true
          err := .noError })

/-- R150: `INIT.B`, in every state. It fails as `INIT.R` does; otherwise it writes the configuration, the cells,
`READY` and `ERR`, while `PA`, `CV`, `TV` and `DELTA` keep what they held. -/
def Obligations.InitBStartsABlock : Prop :=
  (∀ c : Command, c.cw = 0x11 → decode c = .ok (.initB c.rule c.order c.seed)) ∧
  ∀ (rule order : Word) (seed : SeedValue) (s : State),
    (order.toNat < 1 ∨ 6 < order.toNat →
      exec (.initB rule order seed) s = .next
        { s with ready := false, err := if s.err = .noError then .orderRange else s.err }) ∧
    (1 ≤ order.toNat ∧ order.toNat ≤ 6 ∧ seed.neg = true ∧ (seed.int ≠ 0 ∨ 512 ≤ seed.frac.toNat) →
      exec (.initB rule order seed) s = .next
        { s with ready := false, err := if s.err = .noError then .seedNegative else s.err }) ∧
    (∀ o : Order, o.val = order.toNat → (seed.neg = false ∨ (seed.int = 0 ∧ seed.frac.toNat < 512)) →
      exec (.initB rule order seed) s = .next
        { s with
          rule := rule
          order := BitVec.ofNat 3 o.val
          seed := seed
          kind := 2
          cells := seedState seed rule o
          ready := true
          err := .noError })

/-! ### TICK (spec/43_ramp.md, spec/44_resettable.md) -/

/-- R142: a frozen `TICK` emits `CV` and changes nothing else, in every ramp kind and whatever `trig` holds. -/
def Obligations.FrozenTickHoldsAndIgnoresTheTrigger : Prop :=
  ∀ (speed trig : Sfx) (s : State), s.RampReady → speed.toInt.natAbs < 512 →
    exec (.tick speed trig) s = .next { s with out := some s.cv }

/-- R123: the sign of `speed` has no effect on anything: only the magnitude counts, in every state. -/
def Obligations.OnlyTheSpeedMagnitudeCounts : Prop :=
  ∀ (speed speed' trig : Sfx) (s : State), speed.toInt.natAbs = speed'.toInt.natAbs →
    exec (.tick speed trig) s = exec (.tick speed' trig) s

/-- R143: the sign and the size of the trigger are immaterial; only whether its magnitude is below 512 counts,
and in an unfrozen `TICK` of kind `RRAMP` with a direct seed the two cases are told apart by the cells written:
an inactive trigger evolves the cells, an active one the seed. -/
def Obligations.TriggerThreshold : Prop :=
  (∀ (speed trig trig' : Sfx) (s : State), (512 ≤ trig.toInt.natAbs ↔ 512 ≤ trig'.toInt.natAbs) →
    exec (.tick speed trig) s = exec (.tick speed trig') s) ∧
  (∀ (speed trig : Sfx) (s : State) (o : Order), s.RampReady → s.kind = 1 → 512 ≤ speed.toInt.natAbs →
    s.pa = 0 → o.val = s.order.toNat → admissible s.seed = true →
    ∃ t, exec (.tick speed trig) s = .next t ∧
      t.cells = (fun x => evolve x s.rule o)^[(512 + speed.toInt.natAbs + 4294967296 - 1) / 4294967296]
        (if 512 ≤ trig.toInt.natAbs then seedState s.seed s.rule o else s.cells))

/-- R147: outside kind `RRAMP` the `trig` port is ignored, and in kind `BLOCK` `TICK` is refused whatever it
holds. -/
def Obligations.TriggerIgnoredInOtherKinds : Prop :=
  (∀ (speed trig trig' : Sfx) (s : State), s.kind ≠ 1 →
    exec (.tick speed trig) s = exec (.tick speed trig') s) ∧
  (∀ (speed trig : Sfx) (s : State), s.BlockReady →
    exec (.tick speed trig) s = .next { s with err := if s.err = .noError then .kindMismatch else s.err })

/-- R124, R126 to R129: an unfrozen `TICK` with no active trigger and no generation due decrements `PA`, moves
`CV` by the floor of `DELTA * mag / 2^32`, clamps it with the direction taken before it moved, and emits it.
Nothing else changes. -/
def Obligations.TickBetweenGenerations : Prop :=
  ∀ (speed trig : Sfx) (s : State), s.RampReady → 512 ≤ speed.toInt.natAbs →
    (s.kind = 1 → trig.toInt.natAbs < 512) → 512 ≤ s.pa.toInt - speed.toInt.natAbs →
    let moved : Int := s.cv.toInt + s.delta.toInt * speed.toInt.natAbs / 4294967296
    let cv' := BitVec.ofInt 64
      (if s.cv.toInt < s.tv.toInt then min moved s.tv.toInt else max moved s.tv.toInt)
    exec (.tick speed trig) s = .next
      { s with
        pa := BitVec.ofInt 64 (s.pa.toInt - speed.toInt.natAbs)
        cv := cv'
        out := some cv' }

/-- R124 to R130: an unfrozen `TICK` with no active trigger and a generation due runs exactly `n` generations,
takes the last one's amplitude as the target and its distance as the basis, adds `n` to `PA`, then ramps and
emits. Nothing else changes. -/
def Obligations.TickRunsDueGenerations : Prop :=
  ∀ (speed trig : Sfx) (s : State) (o : Order), s.RampReady → 512 ≤ speed.toInt.natAbs →
    (s.kind = 1 → trig.toInt.natAbs < 512) → s.pa.toInt - speed.toInt.natAbs < 512 →
    o.val = s.order.toNat →
    let pa1 : Int := s.pa.toInt - speed.toInt.natAbs
    let n : Nat := ((512 - pa1 + 4294967296 - 1) / 4294967296).toNat
    let cells' := (fun x => evolve x s.rule o)^[n] s.cells
    let delta' := BitVec.ofInt 64 ((toAmp cells').toInt - s.cv.toInt)
    let moved : Int := s.cv.toInt + delta'.toInt * speed.toInt.natAbs / 4294967296
    let cv' := BitVec.ofInt 64
      (if s.cv.toInt < (toAmp cells').toInt then min moved (toAmp cells').toInt
        else max moved (toAmp cells').toInt)
    1 ≤ n ∧
    exec (.tick speed trig) s = .next
      { s with
        cells := cells'
        tv := toAmp cells'
        delta := delta'
        pa := BitVec.ofInt 64 (pa1 + n * 4294967296)
        cv := cv'
        out := some cv' }

/-- R145: an unfrozen `TICK` with an active trigger always runs the loop, from the reseeded state and from
`PA` = 0: `n` generations, with `n` = 1 up to a speed of 1.0 - EPS and `n` = 2 at 1.0. `CV` starts from where it
was (R146). -/
def Obligations.TriggeredTickReseedsAndGenerates : Prop :=
  ∀ (speed trig : Sfx) (s : State) (o : Order), s.ready = true → s.kind = 1 →
    512 ≤ speed.toInt.natAbs → 512 ≤ trig.toInt.natAbs → o.val = s.order.toNat → admissible s.seed = true →
    let mag := speed.toInt.natAbs
    let n : Nat := (512 + mag + 4294967296 - 1) / 4294967296
    let cells' := (fun x => evolve x s.rule o)^[n] (seedState s.seed s.rule o)
    let delta' := BitVec.ofInt 64 ((toAmp cells').toInt - s.cv.toInt)
    let moved : Int := s.cv.toInt + delta'.toInt * mag / 4294967296
    let cv' := BitVec.ofInt 64
      (if s.cv.toInt < (toAmp cells').toInt then min moved (toAmp cells').toInt
        else max moved (toAmp cells').toInt)
    (1 ≤ n ∧ (mag ≤ 4294967296 - 512 → n = 1) ∧ (mag = 4294967296 → n = 2)) ∧
    exec (.tick speed trig) s = .next
      { s with
        cells := cells'
        tv := toAmp cells'
        delta := delta'
        pa := BitVec.ofInt 64 (n * 4294967296 - mag)
        cv := cv'
        out := some cv' }

/-- R139: a `TICK` in kind `RRAMP` with an inactive trigger does what it does in kind `RAMP`, and `INIT.RR` does
what `INIT.R` does, but for the value of `KIND`. -/
def Obligations.RampKindsAgreeWithoutTrigger : Prop :=
  (∀ (speed trig : Sfx) (s : State), s.kind = 0 → trig.toInt.natAbs < 512 →
    (∀ t, exec (.tick speed trig) s = .next t →
      exec (.tick speed trig) { s with kind := 1 } = .next { t with kind := 1 }) ∧
    (∀ f, exec (.tick speed trig) s = .fault f → exec (.tick speed trig) { s with kind := 1 } = .fault f)) ∧
  (∀ (rule order : Word) (seed : SeedValue) (s t : State), exec (.initR rule order seed) s = .next t →
    exec (.initRR rule order seed) s = .next (if t.ready = true then { t with kind := 1 } else t))

/-- R130: the count is the least number of generations that brings the accumulator to `EPS` or above, at most
2^31 + 1 for a 64-bit accumulator, and the loop then stops by its own test. -/
def Obligations.GenerationCountIsLeast : Prop :=
  ∀ (rule : Word) (o : Order) (cv : Sfx) (g : LoopRegs),
    let n := generationsDue g.pa
    512 ≤ g.pa + n * 4294967296 ∧
    (∀ m : Nat, m < n → g.pa + m * 4294967296 < 512) ∧
    (-9223372036854775808 ≤ g.pa → n ≤ 2147483649) ∧
    ¬ (catchUp rule o cv n g).pa < 512

/-- R125: after `n` = 1 or more iterations the registers are those of the last generation, and a larger fuel
changes nothing. -/
def Obligations.CatchUpClosedForm : Prop :=
  ∀ (rule : Word) (o : Order) (cv : Sfx) (g : LoopRegs) (k : Nat), g.pa < 512 →
    let n := generationsDue g.pa
    let cells' := (fun x => evolve x rule o)^[n] g.cells
    1 ≤ n ∧
    catchUp rule o cv (n + k) g =
      { cells := cells'
        tv := toAmp cells'
        delta := BitVec.ofInt 64 ((toAmp cells').toInt - cv.toInt)
        pa := g.pa + n * 4294967296 }

/-- R131: the accumulator's range after every unfrozen `TICK`, and the first one after an `INIT`, when `PA` = 0,
always generates: at least one generation is due. -/
def Obligations.AccumulatorRangeAfterTick : Prop :=
  ∀ (speed trig : Sfx) (s t : State), s.RampReady → 512 ≤ speed.toInt.natAbs →
    (s.pa = 0 ∨ (512 ≤ s.pa.toInt ∧ s.pa.toInt < 4294967808)) →
    exec (.tick speed trig) s = .next t →
    512 ≤ t.pa.toInt ∧ t.pa.toInt < 4294967808 ∧
    (s.pa = 0 → 1 ≤ generationsDue (s.pa.toInt - speed.toInt.natAbs))

/-- R132: a falling ramp goes down to its target and stays there: it never passes below. -/
def Obligations.FallingRampNeverUndershoots : Prop :=
  ∀ (speed trig : Sfx) (s : State), s.RampReady → s.delta.toInt < 0 → s.tv.toInt ≤ s.cv.toInt →
    512 ≤ speed.toInt.natAbs → (s.kind = 1 → trig.toInt.natAbs < 512) →
    512 ≤ s.pa.toInt - speed.toInt.natAbs →
    ∃ t, exec (.tick speed trig) s = .next t ∧ t.tv = s.tv ∧
      s.tv.toInt ≤ t.cv.toInt ∧ t.cv.toInt ≤ s.cv.toInt ∧ (s.tv.toInt < s.cv.toInt → t.cv.toInt < s.cv.toInt)

/-- R133, R128: a rising ramp that is at or above its target is not clamped: it moves on by the whole increment,
so it stands above the target as soon as the increment is positive. -/
def Obligations.RisingRampOvershoots : Prop :=
  ∀ (speed trig : Sfx) (s : State), s.Inv → s.RampReady → 0 < s.delta.toInt → s.tv.toInt ≤ s.cv.toInt →
    512 ≤ speed.toInt.natAbs → (s.kind = 1 → trig.toInt.natAbs < 512) →
    512 ≤ s.pa.toInt - speed.toInt.natAbs →
    ∃ t, exec (.tick speed trig) s = .next t ∧ t.tv = s.tv ∧
      t.cv.toInt = s.cv.toInt + s.delta.toInt * speed.toInt.natAbs / 4294967296 ∧
      (4294967296 ≤ s.delta.toInt * speed.toInt.natAbs → t.tv.toInt < t.cv.toInt)

/-- R146: at a magnitude of 1.0 or more, a `TICK` that generates (triggered or not) ends on its target exactly,
and emits it. -/
def Obligations.FullSpeedGenerationReachesTheTarget : Prop :=
  ∀ (speed trig : Sfx) (s : State), s.Inv → s.RampReady → 4294967296 ≤ speed.toInt.natAbs →
    (s.pa.toInt - speed.toInt.natAbs < 512 ∨ (s.kind = 1 ∧ 512 ≤ trig.toInt.natAbs)) →
    ∃ t, exec (.tick speed trig) s = .next t ∧ t.cv = t.tv ∧ t.out = some t.tv

/-- R135: from a `TICK` that generates, as long as every later unfrozen `TICK` up to the next generation has the
same magnitude `m`, no `TICK` of the run overshoots: `CV` after each lies between `CV` before it and `TV`.
`u j` is the state before the `j`-th of them; frozen ones may stand among them. -/
def Obligations.ConstantSpeedDoesNotOvershoot : Prop :=
  ∀ (m : Nat) (speed trig : Nat → Sfx) (s : State) (u : Nat → State) (k : Nat),
    s.Inv → s.RampReady → 512 ≤ m → (speed 0).toInt.natAbs = m →
    (s.pa.toInt - m < 512 ∨ (s.kind = 1 ∧ 512 ≤ (trig 0).toInt.natAbs)) →
    exec (.tick (speed 0) (trig 0)) s = .next (u 0) →
    (∀ j, j < k →
      exec (.tick (speed (j + 1)) (trig (j + 1))) (u j) = .next (u (j + 1)) ∧
      ((speed (j + 1)).toInt.natAbs < 512 ∨
        ((speed (j + 1)).toInt.natAbs = m ∧ 512 ≤ (u j).pa.toInt - m ∧
          (s.kind = 1 → (trig (j + 1)).toInt.natAbs < 512)))) →
    (min s.cv.toInt (u 0).tv.toInt ≤ (u 0).cv.toInt ∧ (u 0).cv.toInt ≤ max s.cv.toInt (u 0).tv.toInt) ∧
    ∀ j, j < k →
      (u (j + 1)).tv = (u j).tv ∧
      min (u j).cv.toInt (u j).tv.toInt ≤ (u (j + 1)).cv.toInt ∧
      (u (j + 1)).cv.toInt ≤ max (u j).cv.toInt (u j).tv.toInt

/-- R121, R123: a block of `n` frozen samples emits `CV` `n` times. -/
def Obligations.FrozenBlockRepeatsTheCurrentValue : Prop :=
  ∀ (n : Nat) (speed : Sfx) (s : State), s.RampReady → speed.toInt.natAbs < 512 →
    emissions n { s with inputs := inputsOf (expandLine (.block n speed)) ++ s.inputs } =
      List.replicate n s.cv

/-! ### BSTEP (spec/45_block.md) -/

/-- R151: `BSTEP`. It fails with `NOT_READY`, then with `KIND_MISMATCH`, changing only `ERR`; otherwise it
advances one generation and emits the amplitude of the new state, which is in -1.0 to +1.0. -/
def Obligations.BstepAdvancesOneGeneration : Prop :=
  (∀ c : Command, c.cw = 0x03 → decode c = .ok .bstep) ∧
  ∀ s : State,
    (s.ready = false →
      exec .bstep s = .next { s with err := if s.err = .noError then .notReady else s.err }) ∧
    (s.ready = true ∧ s.kind ≠ 2 →
      exec .bstep s = .next { s with err := if s.err = .noError then .kindMismatch else s.err }) ∧
    (∀ o : Order, s.BlockReady → o.val = s.order.toNat →
      exec .bstep s = .next
        { s with
          cells := evolve s.cells s.rule o
          out := some (toAmp (evolve s.cells s.rule o)) } ∧
      -4294967296 ≤ (toAmp (evolve s.cells s.rule o)).toInt ∧
      (toAmp (evolve s.cells s.rule o)).toInt ≤ 4294967296)

/-- R152: the `k`-th `BSTEP` after a successful `INIT.B` emits the amplitude of the `k`-th generation after the
seeded state; the seeded state itself is never heard. -/
def Obligations.SeededStateIsNeverHeard : Prop :=
  ∀ (rule order : Word) (seed : SeedValue) (s : State) (o : Order) (k : Nat), o.val = order.toNat →
    (seed.neg = false ∨ (seed.int = 0 ∧ seed.frac.toNat < 512)) →
    emissions (k + 1)
        { s with inputs := inputsOf (.initB rule order seed :: List.replicate k .bstep) ++ s.inputs } =
      (List.range k).map (fun j => toAmp ((fun x => evolve x rule o)^[j + 1] (seedState seed rule o)))

/-! ### The whole machine -/

/-- R161, R22 to R25: a step that is neither a reset nor an `INIT` leaves the configuration and `READY` as they
were; and a failed `INIT` leaves the configuration too. -/
def Obligations.OnlyInitConfigures : Prop :=
  ∀ s t : State, step s = .next t → nextInput s ≠ .reset →
    ((∀ i, Accepts s i → configures i = false) →
      t.rule = s.rule ∧ t.order = s.order ∧ t.seed = s.seed ∧ t.kind = s.kind) ∧
    ((∀ i, Accepts s i → isInit i = false) → t.ready = s.ready)

/-- R71: a sample is emitted by a permitted `TICK` or `BSTEP`, and by nothing else. -/
def Obligations.OnlyProcessingEmits : Prop :=
  ∀ s t : State, step s = .next t →
    (outValid t = true ↔ ∃ i, Accepts s i ∧ s.permits i = true ∧ emitsSample i = true)

/-- The invariant holds after reset, in the model's reset state and after the reset event. -/
def Obligations.InvariantHoldsAtReset : Prop :=
  State.reset.Inv ∧ ∀ s : State, (resetEvent s).Inv

/-- R33, R131 to R134: every step from a state that meets the invariant gives a state that meets it. -/
def Obligations.StepKeepsTheInvariant : Prop :=
  ∀ s t : State, s.Inv → step s = .next t → t.Inv

/-- R86, R170, R172: from a state that meets the invariant every input has a next state: no input makes the
engine stop. -/
def Obligations.EngineNeverStops : Prop :=
  ∀ s : State, s.Inv → ∃ t, step s = .next t

/-- R33: from any state that is not initialised, whatever the host presents and for as long as it likes,
whenever `READY` = 1 and `KIND` is a ramp kind the five items of R33 hold. -/
def Obligations.RampRegistersStayInRange : Prop :=
  ∀ (k : Nat) (s t : State), s.ready = false → Host.Core.run Sys2Proof.core k s = .next t →
    t.ready = true → t.kind = 0 ∨ t.kind = 1 →
    (-4294967296 ≤ t.tv.toInt ∧ t.tv.toInt ≤ 4294967296) ∧
    (-4294967296 ≤ t.cv.toInt ∧ t.cv.toInt < 12884901888) ∧
    (-17179869184 < t.delta.toInt ∧ t.delta.toInt ≤ 8589934592) ∧
    (t.pa = 0 ∨ (512 ≤ t.pa.toInt ∧ t.pa.toInt < 4294967808)) ∧
    (t.delta.toInt < 0 → t.tv.toInt ≤ t.cv.toInt) ∧
    (t.delta.toInt = 0 → t.cv = t.tv)

/-- R41, R201: a step never tells two states apart that differ only in registers no command can read, and they
stay so; a fault of one is the fault of the other. -/
def Obligations.StepKeepsAgreement : Prop :=
  ∀ s t : State, s.Agrees t →
    (∀ s', step s = .next s' → ∃ t', step t = .next t' ∧ s'.Agrees t') ∧
    (∀ f, step s = .fault f → step t = .fault f)

/-- R201: from two states that both stand after a reset, whatever their other registers hold, the same inputs
always give the same samples and the same `READY` and `ERR`, and the same registers of the running instance. -/
def Obligations.RunsDoNotDependOnUnspecifiedRegisters : Prop :=
  ∀ (k : Nat) (s t : State), s.inputs = t.inputs →
    s.ready = false → t.ready = false → s.err = .noError → t.err = .noError → s.out = none → t.out = none →
    emissions k s = emissions k t ∧
    ∀ s' : State, Host.Core.run Sys2Proof.core k s = .next s' →
      ∃ t' : State, Host.Core.run Sys2Proof.core k t = .next t' ∧ s'.Agrees t'
end

