-- ==== Sys2Proof/Laws/Functions.lean ====
section
/-!
SUPPORT. What the parameters are, and one spec lemma for each pure function: `rotr64`, `evolve`, `evolveN`,
`seedState`, `toAmp`, the operand checks and the catch-up loop.
-/

namespace Sys2Proof.Machine

@[simp] theorem epsRaw_eq : Config.epsRaw = 512 := rfl

@[simp] theorem one_eq : Config.one = 4294967296 := rfl

@[simp] theorem maxU64_eq : Config.maxU64 = 18446744073709551615 := rfl

@[simp] theorem fracBits_eq : Config.fracBits = 32 := rfl

@[simp] theorem warmup_eq : Config.warmup = 32 := rfl

/-- Bit `j` of a rotation is bit `(j + n) mod 64` (R9). -/
theorem rotr64_getLsbD (v : Word) {n j : Nat} (hn : n < 64) (hj : j < 64) :
    (rotr64 v n).getLsbD j = v.getLsbD ((j + n) % 64) := by
  unfold rotr64
  rw [BitVec.getLsbD_or, BitVec.getLsbD_ushiftRight, BitVec.getLsbD_shiftLeft]
  by_cases h : j + n < 64
  · have h1 : j < 64 - n := by omega
    rw [Nat.mod_eq_of_lt h, Nat.add_comm n j]
    simp [h1]
  · have h1 : ¬ j < 64 - n := by omega
    have h2 : (j + n) % 64 = j - (64 - n) := by omega
    have h3 : v.getLsbD (n + j) = false := BitVec.getLsbD_of_ge _ _ (by omega)
    rw [h2, h3]
    simp [h1, hj]

/-- A fold that sets bit `i` to `f i` for every `i` of a list without repeats. -/
theorem foldl_setBits_getLsbD (f : Nat → Bool) (l : List Nat) (w : Word) (j : Nat) (hj : j < 64) :
    (l.foldl (fun out i => out ||| ((BitVec.ofBool (f i)).setWidth 64 <<< i)) w).getLsbD j =
      (w.getLsbD j || (decide (j ∈ l) && f j)) := by
  induction l generalizing w with
  | nil => simp
  | cons a l ih =>
    rw [List.foldl_cons, ih]
    have hbit : ((BitVec.ofBool (f a)).setWidth 64 <<< a).getLsbD j = (decide (j = a) && f j) := by
      rw [BitVec.getLsbD_shiftLeft, BitVec.getLsbD_setWidth, BitVec.getLsbD_ofBool]
      by_cases h : j = a
      · subst h; simp [hj]
      · by_cases h2 : j < a
        · simp [h, h2]
        · have : ¬ (j - a = 0) := by omega
          simp [h, this]
    rw [BitVec.getLsbD_or, hbit]
    by_cases h : j = a <;> by_cases h2 : j ∈ l <;> simp [h, h2] <;> subst h <;> simp_all

/-- Cell `i` of the next state is the rule-table bit that the window of cell `i` selects (R90 step 3). -/
theorem evolve_getLsbD (s rule : Word) (o : Order) {i : Nat} (hi : i < 64) :
    (evolve s rule o).getLsbD i = nextCell s rule o i := by
  unfold evolve
  rw [foldl_setBits_getLsbD _ _ _ _ hi]
  simp [hi]

theorem evolveN_zero (rule : Word) (o : Order) (s : Word) : evolveN rule o 0 s = s := rfl

theorem evolveN_succ (rule : Word) (o : Order) (n : Nat) (s : Word) :
    evolveN rule o (n + 1) s = evolveN rule o n (evolve s rule o) := rfl

/-- The last of `n + 1` generations is applied to the result of the first `n`. -/
theorem evolveN_succ' (rule : Word) (o : Order) (n : Nat) (s : Word) :
    evolveN rule o (n + 1) s = evolve (evolveN rule o n s) rule o := by
  induction n generalizing s with
  | zero => rfl
  | succ n ih => rw [evolveN_succ, ih, evolveN_succ]

/-- Reading a raw integer back from the word it was stored in, when it fits (R9). -/
theorem sfxOfRaw_toInt {r : Int} (h1 : -9223372036854775808 ≤ r) (h2 : r < 9223372036854775808) :
    (sfxOfRaw r).toInt = r := by
  unfold sfxOfRaw
  exact BitVec.toInt_ofInt_eq_self (by decide) (by norm_num; omega) (by norm_num; omega)

theorem absSfx_le (x : Sfx) : absSfx x ≤ 9223372036854775808 := by
  have h1 := BitVec.le_toInt x
  have h2 := BitVec.toInt_lt (x := x)
  unfold absSfx
  norm_num at h1 h2
  omega

theorem legalOrder_eq_some {n : Nat} {o : Order} (h : legalOrder n = some o) :
    1 ≤ n ∧ n ≤ 6 ∧ o.val = n := by
  unfold legalOrder at h
  split at h
  · next hn => cases h; exact ⟨hn.1, hn.2, rfl⟩
  · cases h

theorem legalOrder_of_range {n : Nat} (h1 : 1 ≤ n) (h2 : n ≤ 6) : legalOrder n = some ⟨n, h1, h2⟩ := by
  simp [legalOrder, h1, h2]

theorem legalOrder_eq_none {n : Nat} (h : legalOrder n = none) : n < 1 ∨ 6 < n := by
  unfold legalOrder at h
  split at h
  · cases h
  · omega

/-- What a passed operand check of an `INIT` says (R174, R175). -/
theorem checkInit_ok {order : Word} {sd : SeedValue} {o : Order} (h : checkInit order sd = .ok o) :
    legalOrder order.toNat = some o ∧ admissible sd = true := by
  unfold checkInit at h
  split at h
  · cases h
  · next o' ho =>
    split at h
    · next ha => cases h; exact ⟨ho, ha⟩
    · cases h

/-- What a failed operand check of an `INIT` says, in the order of R178. -/
theorem checkInit_error {order : Word} {sd : SeedValue} {c : Cause} (h : checkInit order sd = .error c) :
    (legalOrder order.toNat = none ∧ c = .orderRange) ∨
    (legalOrder order.toNat ≠ none ∧ admissible sd = false ∧ c = .seedNegative) := by
  unfold checkInit at h
  split at h
  · next ho => cases h; exact .inl ⟨ho, rfl⟩
  · next o ho =>
    split at h
    · cases h
    · next ha => cases h; exact .inr ⟨by simp [ho], by simpa using ha, rfl⟩

/-- The loop stops by its own test, whatever fuel is left (R125). -/
theorem catchUp_of_le (rule : Word) (o : Order) (cv : Sfx) (fuel : Nat) {g : LoopRegs}
    (h : ¬ g.pa < (Config.epsRaw : Int)) : catchUp rule o cv fuel g = g := by
  cases fuel with
  | zero => rfl
  | succ n => simp only [catchUp, if_neg h]

/-- One iteration, when a generation is due (R125). -/
theorem catchUp_of_lt (rule : Word) (o : Order) (cv : Sfx) (fuel : Nat) {g : LoopRegs}
    (h : g.pa < (Config.epsRaw : Int)) :
    catchUp rule o cv (fuel + 1) g = catchUp rule o cv fuel (generation rule o cv g) := by
  simp only [catchUp, if_pos h]

end Sys2Proof.Machine
end

