-- ==== Sys2Proof/Laws/State.lean ====
section
/-!
SUPPORT. One lemma per field per shared operation, true by `rfl`: no later proof unfolds a record update.
-/

namespace Sys2Proof.Machine

/-! `emit` writes the output port only (R71). -/

@[simp] theorem emit_cells (v : Sfx) (s : State) : (emit v s).cells = s.cells := rfl
@[simp] theorem emit_rule (v : Sfx) (s : State) : (emit v s).rule = s.rule := rfl
@[simp] theorem emit_order (v : Sfx) (s : State) : (emit v s).order = s.order := rfl
@[simp] theorem emit_seed (v : Sfx) (s : State) : (emit v s).seed = s.seed := rfl
@[simp] theorem emit_kind (v : Sfx) (s : State) : (emit v s).kind = s.kind := rfl
@[simp] theorem emit_pa (v : Sfx) (s : State) : (emit v s).pa = s.pa := rfl
@[simp] theorem emit_cv (v : Sfx) (s : State) : (emit v s).cv = s.cv := rfl
@[simp] theorem emit_tv (v : Sfx) (s : State) : (emit v s).tv = s.tv := rfl
@[simp] theorem emit_delta (v : Sfx) (s : State) : (emit v s).delta = s.delta := rfl
@[simp] theorem emit_ready (v : Sfx) (s : State) : (emit v s).ready = s.ready := rfl
@[simp] theorem emit_err (v : Sfx) (s : State) : (emit v s).err = s.err := rfl
@[simp] theorem emit_out (v : Sfx) (s : State) : (emit v s).out = some v := rfl
@[simp] theorem emit_inputs (v : Sfx) (s : State) : (emit v s).inputs = s.inputs := rfl
@[simp] theorem emit_fresh (v : Sfx) (s : State) : (emit v s).fresh = s.fresh := rfl

/-! `raiseErr` writes `ERR` and `READY` only (R172). -/

@[simp] theorem raiseErr_cells (c : Cause) (s : State) : (raiseErr c s).cells = s.cells := rfl
@[simp] theorem raiseErr_rule (c : Cause) (s : State) : (raiseErr c s).rule = s.rule := rfl
@[simp] theorem raiseErr_order (c : Cause) (s : State) : (raiseErr c s).order = s.order := rfl
@[simp] theorem raiseErr_seed (c : Cause) (s : State) : (raiseErr c s).seed = s.seed := rfl
@[simp] theorem raiseErr_kind (c : Cause) (s : State) : (raiseErr c s).kind = s.kind := rfl
@[simp] theorem raiseErr_pa (c : Cause) (s : State) : (raiseErr c s).pa = s.pa := rfl
@[simp] theorem raiseErr_cv (c : Cause) (s : State) : (raiseErr c s).cv = s.cv := rfl
@[simp] theorem raiseErr_tv (c : Cause) (s : State) : (raiseErr c s).tv = s.tv := rfl
@[simp] theorem raiseErr_delta (c : Cause) (s : State) : (raiseErr c s).delta = s.delta := rfl
@[simp] theorem raiseErr_ready (c : Cause) (s : State) :
    (raiseErr c s).ready = (s.ready && !endsInstance c) := rfl
@[simp] theorem raiseErr_err (c : Cause) (s : State) :
    (raiseErr c s).err = if s.err = .noError then c else s.err := rfl
@[simp] theorem raiseErr_out (c : Cause) (s : State) : (raiseErr c s).out = s.out := rfl
@[simp] theorem raiseErr_inputs (c : Cause) (s : State) : (raiseErr c s).inputs = s.inputs := rfl
@[simp] theorem raiseErr_fresh (c : Cause) (s : State) : (raiseErr c s).fresh = s.fresh := rfl

/-! `startInstance` leaves the ramp registers (R150). -/

@[simp] theorem startInstance_cells (k : BitVec 2) (rule order : Word) (o : Order) (sd : SeedValue) (s : State) :
    (startInstance k rule order o sd s).cells = seedState sd rule o := rfl
@[simp] theorem startInstance_rule (k : BitVec 2) (rule order : Word) (o : Order) (sd : SeedValue) (s : State) :
    (startInstance k rule order o sd s).rule = rule := rfl
@[simp] theorem startInstance_order (k : BitVec 2) (rule order : Word) (o : Order) (sd : SeedValue) (s : State) :
    (startInstance k rule order o sd s).order = order.setWidth 3 := rfl
@[simp] theorem startInstance_seed (k : BitVec 2) (rule order : Word) (o : Order) (sd : SeedValue) (s : State) :
    (startInstance k rule order o sd s).seed = sd := rfl
@[simp] theorem startInstance_kind (k : BitVec 2) (rule order : Word) (o : Order) (sd : SeedValue) (s : State) :
    (startInstance k rule order o sd s).kind = k := rfl
@[simp] theorem startInstance_pa (k : BitVec 2) (rule order : Word) (o : Order) (sd : SeedValue) (s : State) :
    (startInstance k rule order o sd s).pa = s.pa := rfl
@[simp] theorem startInstance_cv (k : BitVec 2) (rule order : Word) (o : Order) (sd : SeedValue) (s : State) :
    (startInstance k rule order o sd s).cv = s.cv := rfl
@[simp] theorem startInstance_tv (k : BitVec 2) (rule order : Word) (o : Order) (sd : SeedValue) (s : State) :
    (startInstance k rule order o sd s).tv = s.tv := rfl
@[simp] theorem startInstance_delta (k : BitVec 2) (rule order : Word) (o : Order) (sd : SeedValue) (s : State) :
    (startInstance k rule order o sd s).delta = s.delta := rfl
@[simp] theorem startInstance_ready (k : BitVec 2) (rule order : Word) (o : Order) (sd : SeedValue) (s : State) :
    (startInstance k rule order o sd s).ready = true := rfl
@[simp] theorem startInstance_err (k : BitVec 2) (rule order : Word) (o : Order) (sd : SeedValue) (s : State) :
    (startInstance k rule order o sd s).err = .noError := rfl
@[simp] theorem startInstance_out (k : BitVec 2) (rule order : Word) (o : Order) (sd : SeedValue) (s : State) :
    (startInstance k rule order o sd s).out = s.out := rfl
@[simp] theorem startInstance_inputs (k : BitVec 2) (rule order : Word) (o : Order) (sd : SeedValue) (s : State) :
    (startInstance k rule order o sd s).inputs = s.inputs := rfl
@[simp] theorem startInstance_fresh (k : BitVec 2) (rule order : Word) (o : Order) (sd : SeedValue) (s : State) :
    (startInstance k rule order o sd s).fresh = s.fresh := rfl

/-! `startRamp` writes the ramp registers only (R120). -/

@[simp] theorem startRamp_cells (s : State) : (startRamp s).cells = s.cells := rfl
@[simp] theorem startRamp_rule (s : State) : (startRamp s).rule = s.rule := rfl
@[simp] theorem startRamp_order (s : State) : (startRamp s).order = s.order := rfl
@[simp] theorem startRamp_seed (s : State) : (startRamp s).seed = s.seed := rfl
@[simp] theorem startRamp_kind (s : State) : (startRamp s).kind = s.kind := rfl
@[simp] theorem startRamp_pa (s : State) : (startRamp s).pa = 0 := rfl
@[simp] theorem startRamp_cv (s : State) : (startRamp s).cv = toAmp s.cells := rfl
@[simp] theorem startRamp_tv (s : State) : (startRamp s).tv = toAmp s.cells := rfl
@[simp] theorem startRamp_delta (s : State) : (startRamp s).delta = 0 := rfl
@[simp] theorem startRamp_ready (s : State) : (startRamp s).ready = s.ready := rfl
@[simp] theorem startRamp_err (s : State) : (startRamp s).err = s.err := rfl
@[simp] theorem startRamp_out (s : State) : (startRamp s).out = s.out := rfl
@[simp] theorem startRamp_inputs (s : State) : (startRamp s).inputs = s.inputs := rfl
@[simp] theorem startRamp_fresh (s : State) : (startRamp s).fresh = s.fresh := rfl

/-! `ramp` writes `CV` only (R126 to R128). -/

@[simp] theorem ramp_cells (mag : Nat) (s : State) : (ramp mag s).cells = s.cells := rfl
@[simp] theorem ramp_rule (mag : Nat) (s : State) : (ramp mag s).rule = s.rule := rfl
@[simp] theorem ramp_order (mag : Nat) (s : State) : (ramp mag s).order = s.order := rfl
@[simp] theorem ramp_seed (mag : Nat) (s : State) : (ramp mag s).seed = s.seed := rfl
@[simp] theorem ramp_kind (mag : Nat) (s : State) : (ramp mag s).kind = s.kind := rfl
@[simp] theorem ramp_pa (mag : Nat) (s : State) : (ramp mag s).pa = s.pa := rfl
@[simp] theorem ramp_cv (mag : Nat) (s : State) :
    (ramp mag s).cv = sfxOfRaw (if rising s.cv s.tv then min (s.cv.toInt + rampInc s.delta mag) s.tv.toInt
      else max (s.cv.toInt + rampInc s.delta mag) s.tv.toInt) := rfl
@[simp] theorem ramp_tv (mag : Nat) (s : State) : (ramp mag s).tv = s.tv := rfl
@[simp] theorem ramp_delta (mag : Nat) (s : State) : (ramp mag s).delta = s.delta := rfl
@[simp] theorem ramp_ready (mag : Nat) (s : State) : (ramp mag s).ready = s.ready := rfl
@[simp] theorem ramp_err (mag : Nat) (s : State) : (ramp mag s).err = s.err := rfl
@[simp] theorem ramp_out (mag : Nat) (s : State) : (ramp mag s).out = s.out := rfl
@[simp] theorem ramp_inputs (mag : Nat) (s : State) : (ramp mag s).inputs = s.inputs := rfl
@[simp] theorem ramp_fresh (mag : Nat) (s : State) : (ramp mag s).fresh = s.fresh := rfl

/-! `finishTick` writes `CV` and emits it (R126 to R129). -/

@[simp] theorem finishTick_cells (mag : Nat) (s : State) : (finishTick mag s).cells = s.cells := rfl
@[simp] theorem finishTick_rule (mag : Nat) (s : State) : (finishTick mag s).rule = s.rule := rfl
@[simp] theorem finishTick_order (mag : Nat) (s : State) : (finishTick mag s).order = s.order := rfl
@[simp] theorem finishTick_seed (mag : Nat) (s : State) : (finishTick mag s).seed = s.seed := rfl
@[simp] theorem finishTick_kind (mag : Nat) (s : State) : (finishTick mag s).kind = s.kind := rfl
@[simp] theorem finishTick_pa (mag : Nat) (s : State) : (finishTick mag s).pa = s.pa := rfl
@[simp] theorem finishTick_cv (mag : Nat) (s : State) : (finishTick mag s).cv = (ramp mag s).cv := rfl
@[simp] theorem finishTick_tv (mag : Nat) (s : State) : (finishTick mag s).tv = s.tv := rfl
@[simp] theorem finishTick_delta (mag : Nat) (s : State) : (finishTick mag s).delta = s.delta := rfl
@[simp] theorem finishTick_ready (mag : Nat) (s : State) : (finishTick mag s).ready = s.ready := rfl
@[simp] theorem finishTick_err (mag : Nat) (s : State) : (finishTick mag s).err = s.err := rfl
@[simp] theorem finishTick_out (mag : Nat) (s : State) : (finishTick mag s).out = some (ramp mag s).cv := rfl
@[simp] theorem finishTick_inputs (mag : Nat) (s : State) : (finishTick mag s).inputs = s.inputs := rfl
@[simp] theorem finishTick_fresh (mag : Nat) (s : State) : (finishTick mag s).fresh = s.fresh := rfl

/-! `resetEvent` (R190): the registers it leaves unspecified are free values. -/

@[simp] theorem resetEvent_cells (s : State) : (resetEvent s).cells = Config.unspecified .S s.fresh := rfl
@[simp] theorem resetEvent_rule (s : State) : (resetEvent s).rule = Config.unspecified .RULE s.fresh := rfl
@[simp] theorem resetEvent_order (s : State) : (resetEvent s).order = Config.unspecified .ORDER s.fresh := rfl
@[simp] theorem resetEvent_kind (s : State) : (resetEvent s).kind = Config.unspecified .KIND s.fresh := rfl
@[simp] theorem resetEvent_pa (s : State) : (resetEvent s).pa = Config.unspecified .PA s.fresh := rfl
@[simp] theorem resetEvent_cv (s : State) : (resetEvent s).cv = Config.unspecified .CV s.fresh := rfl
@[simp] theorem resetEvent_tv (s : State) : (resetEvent s).tv = Config.unspecified .TV s.fresh := rfl
@[simp] theorem resetEvent_delta (s : State) : (resetEvent s).delta = Config.unspecified .DELTA s.fresh := rfl
@[simp] theorem resetEvent_ready (s : State) : (resetEvent s).ready = false := rfl
@[simp] theorem resetEvent_err (s : State) : (resetEvent s).err = .noError := rfl
@[simp] theorem resetEvent_out (s : State) : (resetEvent s).out = none := rfl
@[simp] theorem resetEvent_inputs (s : State) : (resetEvent s).inputs = s.inputs := rfl
@[simp] theorem resetEvent_fresh (s : State) : (resetEvent s).fresh = s.fresh := rfl

/-! `beginStep` takes the input; no register changes (R73). -/

@[simp] theorem beginStep_cells (s : State) : (beginStep s).cells = s.cells := rfl
@[simp] theorem beginStep_rule (s : State) : (beginStep s).rule = s.rule := rfl
@[simp] theorem beginStep_order (s : State) : (beginStep s).order = s.order := rfl
@[simp] theorem beginStep_seed (s : State) : (beginStep s).seed = s.seed := rfl
@[simp] theorem beginStep_kind (s : State) : (beginStep s).kind = s.kind := rfl
@[simp] theorem beginStep_pa (s : State) : (beginStep s).pa = s.pa := rfl
@[simp] theorem beginStep_cv (s : State) : (beginStep s).cv = s.cv := rfl
@[simp] theorem beginStep_tv (s : State) : (beginStep s).tv = s.tv := rfl
@[simp] theorem beginStep_delta (s : State) : (beginStep s).delta = s.delta := rfl
@[simp] theorem beginStep_ready (s : State) : (beginStep s).ready = s.ready := rfl
@[simp] theorem beginStep_err (s : State) : (beginStep s).err = s.err := rfl
@[simp] theorem beginStep_out (s : State) : (beginStep s).out = none := rfl
@[simp] theorem beginStep_inputs (s : State) : (beginStep s).inputs = s.inputs.tail := rfl
@[simp] theorem beginStep_fresh (s : State) : (beginStep s).fresh = s.fresh + 1 := rfl

/-! `presentCommand` changes what the host presents, and nothing else. -/

@[simp] theorem presentCommand_cells (c : Command) (s : State) : (presentCommand c s).cells = s.cells := rfl
@[simp] theorem presentCommand_rule (c : Command) (s : State) : (presentCommand c s).rule = s.rule := rfl
@[simp] theorem presentCommand_order (c : Command) (s : State) : (presentCommand c s).order = s.order := rfl
@[simp] theorem presentCommand_seed (c : Command) (s : State) : (presentCommand c s).seed = s.seed := rfl
@[simp] theorem presentCommand_kind (c : Command) (s : State) : (presentCommand c s).kind = s.kind := rfl
@[simp] theorem presentCommand_pa (c : Command) (s : State) : (presentCommand c s).pa = s.pa := rfl
@[simp] theorem presentCommand_cv (c : Command) (s : State) : (presentCommand c s).cv = s.cv := rfl
@[simp] theorem presentCommand_tv (c : Command) (s : State) : (presentCommand c s).tv = s.tv := rfl
@[simp] theorem presentCommand_delta (c : Command) (s : State) : (presentCommand c s).delta = s.delta := rfl
@[simp] theorem presentCommand_ready (c : Command) (s : State) : (presentCommand c s).ready = s.ready := rfl
@[simp] theorem presentCommand_err (c : Command) (s : State) : (presentCommand c s).err = s.err := rfl
@[simp] theorem presentCommand_out (c : Command) (s : State) : (presentCommand c s).out = s.out := rfl
@[simp] theorem presentCommand_inputs (c : Command) (s : State) :
    (presentCommand c s).inputs = .command c :: s.inputs := rfl
@[simp] theorem presentCommand_fresh (c : Command) (s : State) : (presentCommand c s).fresh = s.fresh := rfl

end Sys2Proof.Machine
end

