-- ==== Sys2Proof/Laws/Exec.lean ====
section
/-!
SUPPORT. Inversion lemmas: what the shared operations and each command can do, said once, so that a proof cites
the lemma and never unfolds the definition.
-/

namespace Sys2Proof.Machine

/-- What a reseed can do (R141). -/
theorem reseed_ok {s t : State} (h : reseed s = .ok t) :
    ∃ o, legalOrder s.order.toNat = some o ∧ admissible s.seed = true ∧
      t = { s with cells := seedState s.seed s.rule o, pa := 0 } := by
  unfold reseed at h
  split at h
  · cases h
  · next o ho =>
    split at h
    · next ha => cases h; exact ⟨o, ho, ha, rfl⟩
    · cases h

/-- When a reseed has no meaning. -/
theorem reseed_error {s : State} {f : Fault} (h : reseed s = .error f) :
    (legalOrder s.order.toNat = none ∧ f = .orderUndefined) ∨
    (legalOrder s.order.toNat ≠ none ∧ admissible s.seed = false ∧ f = .seedUndefined) := by
  unfold reseed at h
  split at h
  · next ho => cases h; exact .inl ⟨ho, rfl⟩
  · next o ho =>
    split at h
    · cases h
    · next ha => cases h; exact .inr ⟨by simp [ho], by simpa using ha, rfl⟩

/-- What steps 1 and 2 can do (R124, R125): no generation is due, or the loop runs. -/
theorem advance_ok {mag : Nat} {s t : State} (h : advance mag s = .ok t) :
    (¬ s.pa.toInt - (mag : Int) < (Config.epsRaw : Int) ∧
      t = { s with pa := sfxOfRaw (s.pa.toInt - (mag : Int)) }) ∨
    (s.pa.toInt - (mag : Int) < (Config.epsRaw : Int) ∧
      ∃ o g, legalOrder s.order.toNat = some o ∧
        g = catchUp s.rule o s.cv (generationsDue (s.pa.toInt - (mag : Int)))
          { cells := s.cells, tv := s.tv, delta := s.delta, pa := s.pa.toInt - (mag : Int) } ∧
        t = { s with cells := g.cells, tv := g.tv, delta := g.delta, pa := sfxOfRaw g.pa }) := by
  unfold advance at h
  dsimp only at h
  split at h
  · next hlt =>
    split at h
    · cases h
    · next o ho => cases h; exact .inr ⟨hlt, o, _, ho, rfl, rfl⟩
  · next hle => cases h; exact .inl ⟨hle, rfl⟩

/-- When steps 1 and 2 have no meaning. -/
theorem advance_error {mag : Nat} {s : State} {f : Fault} (h : advance mag s = .error f) :
    legalOrder s.order.toNat = none ∧ f = .orderUndefined := by
  unfold advance at h
  dsimp only at h
  split at h
  · split at h
    · next ho => cases h; exact ⟨ho, rfl⟩
    · cases h
  · cases h

/-- What the trigger fragment can do (R141, R147). -/
theorem applyTrigger_ok {trig : Sfx} {s t : State} (h : applyTrigger trig s = .ok t) :
    (¬ (s.kind = Config.kindRRamp ∧ triggerActive trig = true) ∧ t = s) ∨
    (s.kind = Config.kindRRamp ∧ triggerActive trig = true ∧ reseed s = .ok t) := by
  unfold applyTrigger at h
  split at h
  · next hc => exact .inr ⟨hc.1, hc.2, h⟩
  · next hc => cases h; exact .inl ⟨hc, rfl⟩

/-- What a `TICK` that answers a next state can do (R122). -/
theorem execTick_next {speed trig : Sfx} {s t : State} (h : execTick speed trig s = .next t) :
    (s.ready = false ∧ t = raiseErr .notReady s) ∨
    (s.ready = true ∧ s.kind = Config.kindBlock ∧ t = raiseErr .kindMismatch s) ∨
    (s.ready = true ∧ s.kind ≠ Config.kindBlock ∧ frozen speed = true ∧ t = emit s.cv s) ∨
    (s.ready = true ∧ s.kind ≠ Config.kindBlock ∧ frozen speed = false ∧
      ∃ s1 s2, applyTrigger trig s = .ok s1 ∧ advance (absSfx speed) s1 = .ok s2 ∧
        t = finishTick (absSfx speed) s2) := by
  unfold execTick at h
  split at h
  · next hr => cases h; exact .inl ⟨hr, rfl⟩
  · next hr =>
    have hr' : s.ready = true := by simpa using hr
    split at h
    · next hk => cases h; exact .inr (.inl ⟨hr', hk, rfl⟩)
    · next hk =>
      split at h
      · next hf => cases h; exact .inr (.inr (.inl ⟨hr', hk, hf, rfl⟩))
      · next hf =>
        split at h
        · cases h
        · next s1 h1 =>
          split at h
          · cases h
          · next s2 h2 =>
            cases h
            exact .inr (.inr (.inr ⟨hr', hk, by simpa using hf, s1, s2, h1, h2, rfl⟩))

/-- What a `BSTEP` that answers a next state can do (R151). -/
theorem execBstep_next {s t : State} (h : execBstep s = .next t) :
    (s.ready = false ∧ t = raiseErr .notReady s) ∨
    (s.ready = true ∧ s.kind ≠ Config.kindBlock ∧ t = raiseErr .kindMismatch s) ∨
    (s.ready = true ∧ s.kind = Config.kindBlock ∧
      ∃ o, legalOrder s.order.toNat = some o ∧
        t = emit (toAmp (evolve s.cells s.rule o)) { s with cells := evolve s.cells s.rule o }) := by
  unfold execBstep at h
  split at h
  · next hr => cases h; exact .inl ⟨hr, rfl⟩
  · next hr =>
    have hr' : s.ready = true := by simpa using hr
    split at h
    · next hk => cases h; exact .inr (.inl ⟨hr', hk, rfl⟩)
    · next hk =>
      split at h
      · cases h
      · next o ho => cases h; exact .inr (.inr ⟨hr', by simpa using hk, o, ho, rfl⟩)

/-- What an `INIT.R` can do (R120). -/
theorem execInitR_next {rule order : Word} {sd : SeedValue} {s t : State}
    (h : execInitR rule order sd s = .next t) :
    (∃ c, checkInit order sd = .error c ∧ t = raiseErr c s) ∨
    (∃ o, checkInit order sd = .ok o ∧
      t = startRamp (startInstance Config.kindRamp rule order o sd s)) := by
  unfold execInitR at h
  split at h
  · next c hc => cases h; exact .inl ⟨c, hc, rfl⟩
  · next o ho => cases h; exact .inr ⟨o, ho, rfl⟩

/-- What an `INIT.RR` can do (R140). -/
theorem execInitRR_next {rule order : Word} {sd : SeedValue} {s t : State}
    (h : execInitRR rule order sd s = .next t) :
    (∃ c, checkInit order sd = .error c ∧ t = raiseErr c s) ∨
    (∃ o, checkInit order sd = .ok o ∧
      t = startRamp (startInstance Config.kindRRamp rule order o sd s)) := by
  unfold execInitRR at h
  split at h
  · next c hc => cases h; exact .inl ⟨c, hc, rfl⟩
  · next o ho => cases h; exact .inr ⟨o, ho, rfl⟩

/-- What an `INIT.B` can do (R150). -/
theorem execInitB_next {rule order : Word} {sd : SeedValue} {s t : State}
    (h : execInitB rule order sd s = .next t) :
    (∃ c, checkInit order sd = .error c ∧ t = raiseErr c s) ∨
    (∃ o, checkInit order sd = .ok o ∧ t = startInstance Config.kindBlock rule order o sd s) := by
  unfold execInitB at h
  split at h
  · next c hc => cases h; exact .inl ⟨c, hc, rfl⟩
  · next o ho => cases h; exact .inr ⟨o, ho, rfl⟩

/-- An accepted command is an illegal word or a decoded instruction (R84). -/
theorem acceptCommand_next {c : Command} {s t : State} (h : acceptCommand c s = .next t) :
    ((∃ e, decode c = .error e) ∧ t = raiseErr .illegalCmd s) ∨
    (∃ i, decode c = .ok i ∧ exec i s = .next t) := by
  unfold acceptCommand at h
  split at h
  · next e he => cases h; exact .inl ⟨⟨e, he⟩, rfl⟩
  · next i hi => exact .inr ⟨i, hi, h⟩

/-- A step is one input, taken whole (R12, R73). -/
theorem step_next {s t : State} (h : step s = .next t) :
    (nextInput s = .idle ∧ t = beginStep s) ∨
    (nextInput s = .reset ∧ t = resetEvent (beginStep s)) ∨
    (∃ c, nextInput s = .command c ∧ acceptCommand c (beginStep s) = .next t) := by
  unfold step takeInput at h
  split at h
  · next c hc => exact .inr (.inr ⟨c, hc, h⟩)
  · next hi => cases h; exact .inl ⟨hi, rfl⟩
  · next hi => cases h; exact .inr (.inl ⟨hi, rfl⟩)

end Sys2Proof.Machine
end

