-- ==== Sys2Proof/Laws/PerInstr.lean ====
section
/-!
SUPPORT. A statement about every instruction as syntax, made per constructor: the encoder writes a legal command
word whatever the operands and whatever stands on the other ports (spec/30_encoding.md R74, R75).
-/

namespace Sys2Proof.Laws.EncodesLegally

/-- The command word the encoder writes for `i` passes every check of R77. -/
def Statement (i : Instr) : Prop := ∀ d : Command, (encodeOver d i).wellFormed = true

/-- Well-formedness looks at the command word alone (R77). -/
theorem wellFormed_of_cw {c : Command} {w : BitVec 8} (h : c.cw = w)
    (hw : (commandOfWord w).wellFormed = true) : c.wellFormed = true := by
  subst h; exact hw

theorem nop : Statement .nop :=
  fun _ => wellFormed_of_cw (w := cwOfFields 0 0) rfl (by decide)

theorem initR (rule order : Word) (seed : SeedValue) : Statement (.initR rule order seed) :=
  fun _ => wellFormed_of_cw (w := cwOfFields 0 1) rfl (by decide)

theorem initRR (rule order : Word) (seed : SeedValue) : Statement (.initRR rule order seed) :=
  fun _ => wellFormed_of_cw (w := cwOfFields 1 1) rfl (by decide)

theorem initB (rule order : Word) (seed : SeedValue) : Statement (.initB rule order seed) :=
  fun _ => wellFormed_of_cw (w := cwOfFields 2 1) rfl (by decide)

theorem tick (speed trig : Sfx) : Statement (.tick speed trig) :=
  fun _ => wellFormed_of_cw (w := cwOfFields 0 2) rfl (by decide)

theorem bstep : Statement .bstep :=
  fun _ => wellFormed_of_cw (w := cwOfFields 0 3) rfl (by decide)

end Sys2Proof.Laws.EncodesLegally
end

