-- ==== Sys2Proof/Laws/Run.lean ====
section
/-!
SUPPORT. Runs, one step at a time: `Host.Core.run` and `emissions` unfolded by the outcome of the first step.
-/

namespace Sys2Proof.Machine

theorem core_run_zero (s : State) : Host.Core.run Sys2Proof.core 0 s = .next s := rfl

/-- A run of any machine, unfolded once. -/
theorem run_succ (M : Host.Core) (k : Nat) (s : M.State) :
    M.run (k + 1) s =
      match M.step s with
      | .next t => M.run k t
      | .fault r => .fault r
      | .refused r => .refused r := rfl

theorem core_run_succ_of_next {s t : State} (k : Nat) (h : step s = .next t) :
    Host.Core.run Sys2Proof.core (k + 1) s = Host.Core.run Sys2Proof.core k t := by
  have h' : Sys2Proof.core.step s = .next t := h
  have hr := run_succ Sys2Proof.core k s
  rw [h'] at hr
  exact hr

theorem emissions_zero (s : State) : emissions 0 s = [] := rfl

theorem emissions_succ_of_next {s t : State} (k : Nat) (h : step s = .next t) :
    emissions (k + 1) s = t.out.toList ++ emissions k t := by
  simp only [emissions, h]

end Sys2Proof.Machine
end

