-- ==== Sys2Proof/Tests/Slice0.lean ====
section
/-!
SUPPORT. Tests. Every expected value is a vector of spec/95_test_vectors.md (named in the comment), or is written
out from the encoding of spec/30_encoding.md R74. After them, for each statement of
Sys2Proof/Certificates/Slice0/Obligations.lean that has hypotheses, a state and operands that meet them all.
-/

namespace Sys2Proof.Tests

open Sys2Proof Sys2Proof.Machine

/-! ### Helpers -/

def nextOf : Host.Outcome State Fault Refusal → Option State
  | .next t => some t
  | .fault _ => none
  | .refused _ => none

theorem eq_next_of_nextOf {o : Host.Outcome State Fault Refusal} {t : State} (h : nextOf o = some t) :
    o = .next t := by
  cases o <;> simp_all [nextOf]

def faultOf : Host.Outcome State Fault Refusal → Option Fault
  | .next _ => none
  | .fault f => some f
  | .refused _ => none

theorem eq_fault_of_faultOf {o : Host.Outcome State Fault Refusal} {f : Fault} (h : faultOf o = some f) :
    o = .fault f := by
  cases o <;> simp_all [faultOf]

def instrOf (c : Command) : Option Instr := (decode c).toOption

def errorOf (c : Command) : Option DecodeError :=
  match decode c with
  | .ok _ => none
  | .error e => some e

def width (n : Nat) (h : 1 ≤ n ∧ n ≤ 6) : Order := ⟨n, h⟩

def three : Order := ⟨3, by decide⟩

def one : SeedValue := { neg := false, int := 1, frac := 0 }

def negOne : SeedValue := { neg := true, int := 1, frac := 0 }

/-- The state after `INIT.* rule=0x1E, order=3, seed=1` (V-X2, V-X24), of kind `k`. -/
def running (k : BitVec 2) : State :=
  { State.reset with
    rule := 0x1E, order := 3, seed := one, kind := k, cells := 1
    cv := 0xFFFFFFFF00000000, tv := 0xFFFFFFFF00000000, ready := true }

/-- The same, half a generation on. -/
def halfway (k : BitVec 2) : State := { running k with pa := 0x80000000 }

/-- A ramp that rises by its whole target and has reached it. -/
def risen : State :=
  { running 0 with cells := 0x8000000000000000, cv := 0, tv := 0, delta := 0x100000000, pa := 0x100000000 }

/-- A ramp that falls from 0.0 to -0.5. -/
def falling : State :=
  { running 0 with
    cells := 0x4000000000000000, cv := 0, tv := 0xFFFFFFFF80000000, delta := 0xFFFFFFFF80000000
    pa := 0x100000000 }

/-- A state that no run reaches: ready in kind `RAMP` with `ORDER` = 0. -/
def orderless : State := { running 0 with order := 0 }

def half : Sfx := 0x80000000

def full : Sfx := 0x100000000

/-! ### Well-formed command words: one ill-formed term for each check -/

theorem test_wellFormed_six :
    [0x00, 0x01, 0x09, 0x11, 0x02, 0x03].all (fun w => (commandOfWord w).wellFormed) = true := by decide

theorem test_illFormed_rsv : (commandOfWord 0x20).rsvClear = false ∧ (commandOfWord 0x20).wellFormed = false := by
  decide

theorem test_illFormed_op : (commandOfWord 0x04).opDefined = false ∧ (commandOfWord 0x04).wellFormed = false := by
  decide

theorem test_illFormed_kindReserved :
    (commandOfWord 0x19).kindDefined = false ∧ (commandOfWord 0x19).wellFormed = false := by decide

theorem test_illFormed_kindClear :
    (commandOfWord 0x0A).kindClear = false ∧ (commandOfWord 0x0A).wellFormed = false := by decide

/-! ### Decoding: words written out as `rsv`, `kind`, `op` (R74); V-K1 to V-K12 -/

theorem test_decode_nop : instrOf (commandOfWord 0b000_00_000) = some .nop := by decide

theorem test_decode_initR :
    instrOf { commandOfWord 0b000_00_001 with rule := 5, order := 6, seed := negOne } =
      some (.initR 5 6 negOne) := by decide

theorem test_decode_initRR :
    instrOf { commandOfWord 0b000_01_001 with rule := 5, order := 6, seed := negOne } =
      some (.initRR 5 6 negOne) := by decide

theorem test_decode_initB :
    instrOf { commandOfWord 0b000_10_001 with rule := 5, order := 6, seed := negOne } =
      some (.initB 5 6 negOne) := by decide

theorem test_decode_tick :
    instrOf { commandOfWord 0b000_00_010 with speed := 7, trig := 8 } = some (.tick 7 8) := by decide

theorem test_decode_bstep : instrOf (commandOfWord 0b000_00_011) = some .bstep := by decide

/-- V-K7, V-K8, V-K11, V-K12. -/
theorem test_decode_illegal :
    errorOf (commandOfWord 0x19) = some .kindReserved ∧ errorOf (commandOfWord 0x0A) = some .kindNotZero ∧
    errorOf (commandOfWord 0x04) = some .opReserved ∧ errorOf (commandOfWord 0x81) = some .rsvNotZero := by decide

/-- "Count: of the 256 values, 6 decode to a command and 250 to `ILLEGAL_CMD`" (section 5). -/
theorem test_decode_counts :
    ((List.range 256).filter (fun w => (instrOf (commandOfWord (BitVec.ofNat 8 w))).isSome)).length = 6 := by
  decide +kernel

/-- The encoder writes the words of R75. -/
theorem test_encode_words :
    [encodeWord .nop, encodeWord (.initR 0 0 one), encodeWord (.initRR 0 0 one), encodeWord (.initB 0 0 one),
      encodeWord (.tick 0 0), encodeWord .bstep] = [0x00, 0x01, 0x09, 0x11, 0x02, 0x03] := by decide

/-! ### The pure functions -/

/-- V-E8, V-E9: the windows of cells 63 and 0 wrap. -/
theorem test_evolve_wraps :
    evolve 0x0000000000000001 0x1E three = 0x8000000000000003 ∧
    evolve 0x8000000000000000 0x1E three = 0xC000000000000001 := by decide +kernel

/-- V-E15, V-E20: the narrowest and the widest window on one state. -/
theorem test_evolve_widths :
    evolve 0x0123456789ABCDEF 0xDEADBEEFCAFEF00D (width 1 (by decide)) = 0xFDB97530ECA86421 ∧
    evolve 0x0123456789ABCDEF 0xDEADBEEFCAFEF00D (width 6 (by decide)) = 0xBD268CFFC9DFFFEF := by decide +kernel

/-- V-S7, V-S17, V-S18, V-S22: both branches, at the threshold. -/
theorem test_seed_branches :
    seedState { neg := false, int := 0, frac := 0 } 0x1E three = 0x950048E78F446230 ∧
    seedState { neg := false, int := 0, frac := 511 } 0x2 (width 1 (by decide)) = 0x0000800000000000 ∧
    seedState { neg := false, int := 0, frac := 512 } 0x2 (width 1 (by decide)) = 0 ∧
    seedState { neg := false, int := 5, frac := 3006477107 } 0x2 (width 1 (by decide)) = 5 := by decide +kernel

/-- V-A1, V-A6, V-A15, V-A16, V-A17. -/
theorem test_toAmp :
    toAmp 0 = 0xFFFFFFFF00000000 ∧ toAmp 0x3FFFFFFFFFFFFFFF = 0xFFFFFFFF7FFFFFFF ∧
    toAmp 0xFFFFFFFFFFFFFFFE = 0x00000000FFFFFFFF ∧ toAmp 0xFFFFFFFFFFFFFFFF = 0x0000000100000000 ∧
    toAmp 0x950048E78F446230 = 0x000000002A0091CF := by decide +kernel

/-! ### The commands, one step each -/

/-- V-X14: `NOP` in the reset state. -/
theorem test_nop : (nextOf (step (State.reset.withFetchWord 8 0x00))).map (fun t => (t.ready, t.err, t.out)) =
    some (false, .noError, none) := by decide

/-- V-X4: a negative near-zero seed is accepted. -/
theorem test_initR_near_zero :
    (nextOf (exec (.initR 2 1 { neg := true, int := 0, frac := 511 }) State.reset)).map
      (fun t => (t.cells, t.cv, t.ready, t.err)) =
      some (0x0000800000000000, 0xFFFFFFFF00010000, true, .noError) := by decide +kernel

/-- V-X9: all 64 bits of `order` are compared. -/
theorem test_initR_order :
    (nextOf (exec (.initR 2 4294967299 one) (running 0))).map (fun t => (t.rule, t.ready, t.err)) =
      some (0x1E, false, .orderRange) := by decide

/-- V-X2. -/
theorem test_initRR :
    (nextOf (exec (.initRR 0x1E 3 one) State.reset)).map (fun t => (t.cells, t.kind, t.cv, t.ready)) =
      some (1, 1, 0xFFFFFFFF00000000, true) := by decide +kernel

/-- V-X23: the first cause is kept. -/
theorem test_initRR_sticky :
    (nextOf (exec (.initRR 0x1E 7 one) { State.reset with err := .notReady })).map (fun t => t.err) =
      some .notReady := by decide

/-- V-X3: the ramp registers are not written. -/
theorem test_initB :
    (nextOf (exec (.initB 0x1E 3 one) { State.reset with cv := 7, pa := 9 })).map
      (fun t => (t.cells, t.kind, t.cv, t.pa, t.ready)) = some (1, 2, 7, 9, true) := by decide +kernel

/-- V-X10: the order is checked before the seed. -/
theorem test_initB_priority :
    (nextOf (exec (.initB 0x1E 0 negOne) State.reset)).map (fun t => t.err) = some .orderRange := by decide

/-- P3 line 4: the overshoot of a rising ramp. -/
theorem test_tick_overshoot :
    (nextOf (exec (.tick 0x40000000 0)
      { running 0 with cells := 0xFFFFFFFFFFFFFFFF, pa := 0x80000000, cv := full, tv := full,
                       delta := 0x200000000 })).map (fun t => (t.pa, t.out)) =
      some (0x40000000, some 0x0000000180000000) := by decide +kernel

/-- P4 line 7: a negative speed and a negative trigger. -/
theorem test_tick_trigger :
    (nextOf (exec (.tick 0xFFFFFFFF80000000 0xFFFFFFFF00000000)
      { running 1 with
        seed := { neg := false, int := 0, frac := 0 }, cells := 0x05418172D4C8944F, pa := full
        cv := 0xFFFFFFFF82A2C0F9, tv := 0xFFFFFFFF0A8302E5, delta := 0 })).map
      (fun t => (t.cells, t.pa, t.out)) =
      some (0xF580FD9C586ED769, 0x80000000, some 0x0000000036D25E18) := by decide +kernel

/-- P2 line 1. -/
theorem test_bstep :
    (nextOf (exec .bstep (running 2))).map (fun t => (t.cells, t.out)) =
      some (0x8000000000000003, some 0) := by decide +kernel

/-- V-X12: `KIND` is not looked at. -/
theorem test_bstep_not_ready :
    (nextOf (exec .bstep State.reset)).map (fun t => (t.err, t.out)) = some (.notReady, none) := by decide

/-- V-X13: an illegal command word. -/
theorem test_illegal_word :
    (nextOf (step (State.reset.withFetchWord 8 0x19))).map (fun t => (t.ready, t.err)) =
      some (false, .illegalCmd) := by decide

/-- R82, R83: the textual form, with a comment, a hexadecimal and a `raw:` literal, and `RETRIG`. -/
theorem test_readLine :
    readLine "INIT.R rule=0x2, order=1, seed=raw:-511 ; V-X4".toList =
      some [.initR 2 1 { neg := true, int := 0, frac := 511 }] ∧
    readLine "TICK    speed=-0.5, trig=1.0".toList = some [.tick 0xFFFFFFFF80000000 full] ∧
    readLine "RETRIG speed=0.5".toList = some [.tick half full] ∧
    readLine "INIT.R rule=0x1E, order=3, seed=5.7".toList =
      some [.initR 0x1E 3 { neg := false, int := 5, frac := 3006477107 }] := by decide +kernel

/-! ### Witnesses: the hypotheses of each statement, met together -/

theorem inv_running : (running 0).Inv ∧ (running 1).Inv := ⟨by decide +kernel, by decide +kernel⟩

theorem inv_running_block : (running 2).Inv := by decide +kernel

theorem inv_late : ({ running 1 with pa := 0x1000001FF } : State).Inv := by decide +kernel

theorem inv_ramps : risen.Inv ∧ falling.Inv := ⟨by decide +kernel, by decide +kernel⟩

theorem witness_NopHasNoEffect : (commandOfWord 0x00).cw = 0x00 := rfl

def feed (s : State) (i : Instr) : State := { s with inputs := [.command (encode i)] }

theorem witness_DecodeAndEncodeAgree :
    (Instr.initB 5 6 negOne).wellFormed = true ∧
    decode (encodeOver (commandOfWord 0xFF) (.tick 7 8)) = .ok (.tick 7 8) := ⟨rfl, rfl⟩

/-- The first and the last word of every gap between the six. -/
theorem witness_SixCommandWords :
    ∀ w ∈ ([0x04, 0x08, 0x0A, 0x10, 0x12, 0xFF] : List (BitVec 8)),
      w ≠ 0x00 ∧ w ≠ 0x01 ∧ w ≠ 0x09 ∧ w ≠ 0x11 ∧ w ≠ 0x02 ∧ w ≠ 0x03 := by decide

theorem witness_DecodesExactlyTheWellFormedWords :
    (∃ i, decode (commandOfWord 0x11) = .ok i) ∧ (commandOfWord 0x11).wellFormed = true ∧
    (commandOfWord 0x18).wellFormed = false := ⟨⟨_, rfl⟩, by decide, by decide⟩

theorem witness_StepRunsTheDecodedCommand :
    (feed (running 0) (.tick half 0)).inputs = [.command (encode (.tick half 0))] ∧
    decode (encode (.tick half 0)) = .ok (.tick half 0) := ⟨rfl, rfl⟩

theorem witness_IllegalWordOnlyRecordsItsCause :
    ((running 0).withFetchWord 8 0x19).inputs = [.command (commandOfWord 0x19)] ∧
    ((0x19 : BitVec 8) ≠ 0x00 ∧ (0x19 : BitVec 8) ≠ 0x01 ∧ (0x19 : BitVec 8) ≠ 0x09 ∧ (0x19 : BitVec 8) ≠ 0x11 ∧
      (0x19 : BitVec 8) ≠ 0x02 ∧ (0x19 : BitVec 8) ≠ 0x03) := by decide

theorem witness_NoCommandChangesNoRegister :
    (running 0).inputs = [] ∧ ({ running 0 with inputs := [.idle, .reset] } : State).inputs = [.idle, .reset] :=
  ⟨rfl, rfl⟩

theorem witness_ResetClearsReadyAndErr :
    ({ running 0 with err := .kindMismatch, inputs := [.reset] } : State).inputs = [.reset] := rfl

theorem witness_OrderOutOfRangeFailsInit :
    (0 : Word).toNat < 1 ∧ 6 < (7 : Word).toNat ∧ 6 < (4294967299 : Word).toNat ∧
    6 < (0xFFFFFFFFFFFFFFFF : Word).toNat := by decide

/-- Both clauses at the threshold, at both ends of the order's range. -/
theorem witness_NegativeSeedFailsInit :
    three.val = (3 : Word).toNat ∧ (width 1 (by decide)).val = (1 : Word).toNat ∧
    (width 6 (by decide)).val = (6 : Word).toNat ∧ negOne.neg = true ∧ negOne.int ≠ 0 ∧
    512 ≤ ({ neg := true, int := 0, frac := 512 } : SeedValue).frac.toNat ∧
    ({ neg := true, int := 0, frac := 511 } : SeedValue).frac.toNat < 512 := by decide

theorem witness_NotReadyRefusesProcessing : State.reset.ready = false := rfl

theorem witness_WrongKindRefusesProcessing :
    (running 2).ready = true ∧ (running 2).kind = 2 ∧ (running 0).ready = true ∧ (running 0).kind = 0 ∧
    (running 1).ready = true ∧ (running 1).kind = 1 := by decide

theorem witness_ErrorPriority :
    (State.reset.withFetchWord 8 0x19).err = .noError ∧
    (State.reset.withFetchWord 8 0x19).inputs.head? = some (.command (commandOfWord 0x19)) ∧
    (commandOfWord 0x19).wellFormed = false ∧
    (Instr.initB 0 7 negOne) ∈ [Instr.initR 0 7 negOne, .initRR 0 7 negOne, .initB 0 7 negOne] ∧
    6 < (7 : Word).toNat ∧ 1 ≤ (6 : Word).toNat ∧ (6 : Word).toNat ≤ 6 ∧ 1 ≤ (1 : Word).toNat ∧
    admissible negOne = false ∧
    State.reset.ready = false ∧ (running 0).err = .noError ∧ (running 0).ready = true ∧
    (running 0).permits .bstep = false ∧ (running 2).permits (.tick half full) = false := by decide

/-- An error kept by a sample, cleared by an `INIT` and cleared by a reset. -/
theorem witness_OnlyResetAndInitClearErr :
    (∃ t, step (feed { running 0 with err := .notReady } (.tick 0 0)) = .next t) ∧
    (∃ t, step (feed { running 0 with err := .notReady } (.initR 0x1E 3 one)) = .next t) ∧
    (∃ t, step { running 0 with err := .notReady, inputs := [.reset] } = .next t) ∧
    Cause.notReady ≠ .noError := ⟨⟨_, rfl⟩, ⟨_, rfl⟩, ⟨_, rfl⟩, by decide⟩

theorem witness_UnpermittedCommandIsRefusedWhole :
    (running 0).permits (.initR 0 0 one) = false ∧ (running 0).permits (.initRR 0 7 one) = false ∧
    (running 0).permits (.initB 0 3 negOne) = false ∧ (running 2).permits (.tick half 0) = false ∧
    (running 1).permits .bstep = false ∧ State.reset.permits .bstep = false := by decide

theorem witness_PermittedCommandCompletes :
    (running 0).Inv ∧ (running 1).Inv ∧ (running 2).Inv ∧ (running 0).permits .nop = true ∧
    (running 0).permits (.initR 0x1E 1 one) = true ∧ (running 0).permits (.initRR 0x1E 6 one) = true ∧
    (running 0).permits (.initB 0x1E 3 one) = true ∧ (running 0).permits (.tick half 0) = true ∧
    (running 1).permits (.tick full full) = true ∧ (running 2).permits .bstep = true :=
  ⟨inv_running.1, inv_running.2, inv_running_block, by decide +kernel⟩

theorem witness_EvolveCellByCell : 0 < 64 ∧ 63 < 64 := by decide

/-- V-E21, V-E22; the first and the last entry of a table. -/
theorem witness_HighRuleBitsAreInert :
    (0x1E : Word).toNat % 2 ^ 2 ^ three.val = (0xFFFFFFFFFFFFFF1E : Word).toNat % 2 ^ 2 ^ three.val ∧
    (0x1E : Word) ≠ 0xFFFFFFFFFFFFFF1E ∧ 0 < 2 ^ three.val ∧ 63 < 2 ^ (width 6 (by decide)).val := by decide

/-- V-E21, V-E28: the rotation of a state, at `k` = 1 and at the ends of the range of `k`. -/
theorem witness_EvolveCommutesWithRotation :
    1 < 64 ∧ 0 < 64 ∧ 63 < 64 ∧ rotr64 0x0123456789ABCDEF ((64 - 1) % 64) = 0x02468ACF13579BDE ∧
    rotr64 0x0123456789ABCDEF ((64 - 0) % 64) = 0x0123456789ABCDEF ∧
    rotr64 0x0123456789ABCDEF ((64 - 63) % 64) = 0x8091A2B3C4D5E6F7 := by decide

theorem witness_SeedTakesItsTwoBranches :
    (({ neg := true, int := 0, frac := 511 } : SeedValue).int = 0 ∧ (511 : BitVec 32).toNat < 512) ∧
    512 ≤ ({ neg := false, int := 0, frac := 512 } : SeedValue).frac.toNat ∧ one.int ≠ 0 := by decide

theorem witness_LatchedSeedRestoresTheSeededState :
    isInit (.initRR 0x1E 3 one) = true ∧
    ∃ t, exec (.initRR 0x1E 3 one) State.reset = .next t ∧ t.ready = true := ⟨rfl, _, rfl, rfl⟩

theorem witness_AmplitudeIsMonotonic :
    (0x7FFFFFFF : Word).toNat ≤ (0x80000000 : Word).toNat ∧
    (-4294967296 : Int) ≤ 4294967296 := by decide

/-- Both ends of the order's range, a seed that is not negative and one that is negative and near zero. -/
theorem witness_InitRStartsARamp :
    (commandOfWord 0x01).cw = 0x01 ∧ (0 : Word).toNat < 1 ∧ 6 < (7 : Word).toNat ∧
    (1 ≤ (6 : Word).toNat ∧ (6 : Word).toNat ≤ 6 ∧ negOne.neg = true ∧ negOne.int ≠ 0) ∧
    (width 1 (by decide)).val = (1 : Word).toNat ∧ (width 6 (by decide)).val = (6 : Word).toNat ∧
    (one.neg = false ∨ (one.int = 0 ∧ one.frac.toNat < 512)) ∧
    (({ neg := true, int := 0, frac := 511 } : SeedValue).int = 0 ∧ (511 : BitVec 32).toNat < 512) := by decide

theorem witness_InitRRStartsAResettableRamp :
    (commandOfWord 0x09).cw = 0x09 ∧ 6 < (7 : Word).toNat ∧
    (1 ≤ (1 : Word).toNat ∧ (1 : Word).toNat ≤ 6 ∧ negOne.neg = true ∧ negOne.int ≠ 0) ∧
    three.val = (3 : Word).toNat ∧ (one.neg = false ∨ (one.int = 0 ∧ one.frac.toNat < 512)) := by decide

theorem witness_InitBStartsABlock :
    (commandOfWord 0x11).cw = 0x11 ∧ 6 < (7 : Word).toNat ∧
    (1 ≤ (1 : Word).toNat ∧ (1 : Word).toNat ≤ 6 ∧ negOne.neg = true ∧ negOne.int ≠ 0) ∧
    three.val = (3 : Word).toNat ∧ (one.neg = false ∨ (one.int = 0 ∧ one.frac.toNat < 512)) := by decide

/-- The largest frozen magnitude, of both signs, in both ramp kinds. -/
theorem witness_FrozenTickHoldsAndIgnoresTheTrigger :
    (running 0).RampReady ∧ (running 1).RampReady ∧ (511 : Sfx).toInt.natAbs < 512 ∧
    (0xFFFFFFFFFFFFFE01 : Sfx).toInt.natAbs < 512 := by decide

theorem witness_OnlyTheSpeedMagnitudeCounts :
    half.toInt.natAbs = (0xFFFFFFFF80000000 : Sfx).toInt.natAbs ∧ half ≠ 0xFFFFFFFF80000000 := by decide

/-- Triggers on the same side of the threshold, and an inactive and an active one at it. -/
theorem witness_TriggerThreshold :
    (512 ≤ (512 : Sfx).toInt.natAbs ↔ 512 ≤ (0xFFFFFFFFFFFFFE00 : Sfx).toInt.natAbs) ∧
    (512 ≤ (511 : Sfx).toInt.natAbs ↔ 512 ≤ (0 : Sfx).toInt.natAbs) ∧
    (running 1).RampReady ∧ (running 1).kind = 1 ∧ 512 ≤ half.toInt.natAbs ∧ (running 1).pa = 0 ∧
    three.val = (running 1).order.toNat ∧ admissible (running 1).seed = true := by decide

theorem witness_TriggerIgnoredInOtherKinds : (running 0).kind ≠ 1 ∧ (running 2).kind ≠ 1 ∧
    (running 2).BlockReady := by decide

/-- The largest speed that leaves the accumulator at `EPS`, in both ramp kinds. -/
theorem witness_TickBetweenGenerations :
    (halfway 1).RampReady ∧ (halfway 0).RampReady ∧ (halfway 1).kind = 1 ∧ (511 : Sfx).toInt.natAbs < 512 ∧
    512 ≤ (0x7FFFFE00 : Sfx).toInt.natAbs ∧
    512 ≤ (halfway 1).pa.toInt - (0x7FFFFE00 : Sfx).toInt.natAbs := by decide

/-- The smallest speed that makes a generation due there, in both ramp kinds. -/
theorem witness_TickRunsDueGenerations :
    (halfway 1).RampReady ∧ (halfway 0).RampReady ∧ (halfway 1).kind = 1 ∧ (511 : Sfx).toInt.natAbs < 512 ∧
    512 ≤ (0x7FFFFE01 : Sfx).toInt.natAbs ∧
    (halfway 1).pa.toInt - (0x7FFFFE01 : Sfx).toInt.natAbs < 512 ∧
    three.val = (halfway 1).order.toNat := by decide

/-- Also the speeds at which the two clauses about `n` begin to hold. -/
theorem witness_TriggeredTickReseedsAndGenerates :
    (halfway 1).ready = true ∧ (halfway 1).kind = 1 ∧ 512 ≤ (512 : Sfx).toInt.natAbs ∧
    512 ≤ full.toInt.natAbs ∧ three.val = (halfway 1).order.toNat ∧ admissible (halfway 1).seed = true ∧
    (0xFFFFFE00 : Sfx).toInt.natAbs ≤ 4294967296 - 512 ∧ full.toInt.natAbs = 4294967296 := by decide

/-- A `TICK` that completes, one that stops, an `INIT` that succeeds and one that fails. -/
theorem witness_RampKindsAgreeWithoutTrigger :
    (halfway 0).kind = 0 ∧ orderless.kind = 0 ∧ (511 : Sfx).toInt.natAbs < 512 ∧
    (∃ t, exec (.tick 512 511) (halfway 0) = .next t) ∧
    (∃ f, exec (.tick full 511) orderless = .fault f) ∧
    (∃ t, exec (.initR 0x1E 3 one) State.reset = .next t ∧ t.ready = true) ∧
    (∃ t, exec (.initR 0x1E 7 one) State.reset = .next t ∧ t.ready = false) :=
  ⟨rfl, rfl, by decide, ⟨_, rfl⟩, ⟨.orderUndefined, eq_fault_of_faultOf (by decide +kernel)⟩, ⟨_, rfl, rfl⟩,
    ⟨_, rfl, rfl⟩⟩

/-- The most negative accumulator of R130, and an `m` below its count. -/
theorem witness_GenerationCountIsLeast :
    (-9223372036854775808 : Int) ≤ -9223372036854775808 ∧ 1 < generationsDue (-9223372036854775808) := by decide

theorem witness_CatchUpClosedForm :
    ({ cells := 1, tv := 0, delta := 0, pa := 511 } : LoopRegs).pa < 512 := by decide

theorem witness_AccumulatorRangeAfterTick :
    (running 0).RampReady ∧ 512 ≤ half.toInt.natAbs ∧ (running 0).pa = 0 ∧
    (512 ≤ (halfway 0).pa.toInt ∧ (halfway 0).pa.toInt < 4294967808) ∧ (halfway 0).RampReady ∧
    (nextOf (exec (.tick half 0) (running 0))).isSome = true ∧
    (nextOf (exec (.tick half 0) (halfway 0))).isSome = true := by decide +kernel

theorem witness_FallingRampNeverUndershoots :
    falling.RampReady ∧ falling.Inv ∧ falling.delta.toInt < 0 ∧ falling.tv.toInt ≤ falling.cv.toInt ∧
    512 ≤ half.toInt.natAbs ∧ (falling.kind = 1 → (0 : Sfx).toInt.natAbs < 512) ∧
    512 ≤ falling.pa.toInt - half.toInt.natAbs ∧ falling.tv.toInt < falling.cv.toInt := by decide +kernel

theorem witness_RisingRampOvershoots :
    risen.Inv ∧ risen.RampReady ∧ 0 < risen.delta.toInt ∧ risen.tv.toInt ≤ risen.cv.toInt ∧
    512 ≤ half.toInt.natAbs ∧ (risen.kind = 1 → (0 : Sfx).toInt.natAbs < 512) ∧
    512 ≤ risen.pa.toInt - half.toInt.natAbs ∧ 4294967296 ≤ risen.delta.toInt * half.toInt.natAbs := by
  decide +kernel

/-- A generation that the accumulator makes due, and one that only the trigger does. -/
theorem witness_FullSpeedGenerationReachesTheTarget :
    (running 0).Inv ∧ (running 0).RampReady ∧ 4294967296 ≤ full.toInt.natAbs ∧
    (running 0).pa.toInt - full.toInt.natAbs < 512 ∧
    ({ running 1 with pa := 0x1000001FF } : State).Inv ∧ ({ running 1 with pa := 0x1000001FF } : State).RampReady ∧
    ({ running 1 with pa := 0x1000001FF } : State).kind = 1 ∧ 512 ≤ (512 : Sfx).toInt.natAbs :=
  ⟨inv_running.1, by decide, by decide, by decide, inv_late, by decide⟩

/-- Three samples at a quarter of full speed: the state after the first `j + 1`. -/
def quarterRun : Nat → State
  | 0 => (nextOf (exec (.tick 0x40000000 0) (running 0))).getD (running 0)
  | j + 1 => (nextOf (exec (.tick 0x40000000 0) (quarterRun j))).getD (quarterRun j)

theorem witness_ConstantSpeedDoesNotOvershoot :
    (running 0).Inv ∧ (running 0).RampReady ∧ 512 ≤ 0x40000000 ∧ (0x40000000 : Sfx).toInt.natAbs = 0x40000000 ∧
    (running 0).pa.toInt - 0x40000000 < 512 ∧
    nextOf (exec (.tick 0x40000000 0) (running 0)) = some (quarterRun 0) ∧
    ∀ j, j < 2 →
      nextOf (exec (.tick 0x40000000 0) (quarterRun j)) = some (quarterRun (j + 1)) ∧
      512 ≤ (quarterRun j).pa.toInt - 0x40000000 ∧ ((running 0).kind = 1 → (0 : Sfx).toInt.natAbs < 512) :=
  ⟨inv_running.1, by decide, by decide, by decide, by decide, by decide +kernel, by decide +kernel⟩

theorem witness_FrozenBlockRepeatsTheCurrentValue :
    (running 0).RampReady ∧ (0 : Sfx).toInt.natAbs < 512 := by decide

theorem witness_BstepAdvancesOneGeneration :
    (commandOfWord 0x03).cw = 0x03 ∧ State.reset.ready = false ∧
    ((running 0).ready = true ∧ (running 0).kind ≠ 2) ∧
    ((running 2).BlockReady ∧ three.val = (running 2).order.toNat) := by decide

theorem witness_SeededStateIsNeverHeard :
    three.val = (3 : Word).toNat ∧ (one.neg = false ∨ (one.int = 0 ∧ one.frac.toNat < 512)) := by decide

/-- A step that is no `INIT`, and one that is an `INIT` that fails. -/
theorem witness_OnlyInitConfigures :
    (∃ t, step (feed (running 0) (.tick 0 0)) = .next t) ∧ nextInput (feed (running 0) (.tick 0 0)) ≠ .reset ∧
    decode (encode (.tick 0 0)) = .ok (.tick 0 0) ∧ isInit (.tick 0 0) = false ∧
    (∃ t, step (feed (running 0) (.initR 0x1E 7 one)) = .next t) ∧
    nextInput (feed (running 0) (.initR 0x1E 7 one)) ≠ .reset ∧
    decode (encode (.initR 0x1E 7 one)) = .ok (.initR 0x1E 7 one) ∧
    configures (.initR 0x1E 7 one) = false :=
  ⟨⟨_, rfl⟩, by decide, rfl, rfl, ⟨_, rfl⟩, by decide, rfl, by decide⟩

theorem witness_OnlyProcessingEmits :
    (∃ t, step (feed (running 0) (.tick 0 0)) = .next t) ∧ (running 0).permits (.tick 0 0) = true ∧
    emitsSample (.tick 0 0) = true ∧ (∃ t, step (feed (running 0) .nop) = .next t) :=
  ⟨⟨_, rfl⟩, by decide, rfl, ⟨_, rfl⟩⟩

theorem witness_StepKeepsTheInvariant :
    (feed (halfway 0) (.tick half 0)).Inv ∧ (feed (halfway 1) (.tick half full)).Inv ∧
    (feed (running 2) .bstep).Inv ∧
    (nextOf (step (feed (halfway 0) (.tick half 0)))).isSome = true ∧
    (nextOf (step (feed (halfway 1) (.tick half full)))).isSome = true ∧
    (nextOf (step (feed (running 2) .bstep))).isSome = true :=
  ⟨by decide +kernel, by decide +kernel, inv_running_block, by decide +kernel⟩

theorem witness_EngineNeverStops : risen.Inv ∧ falling.Inv ∧ State.reset.Inv :=
  ⟨inv_ramps.1, inv_ramps.2, by decide⟩

/-- A run from reset that ends in a ready ramp. -/
def rampRun : State :=
  { State.reset with inputs := [.command (encode (.initR 0x1E 3 one)), .command (encode (.tick half 0))] }

theorem witness_RampRegistersStayInRange :
    rampRun.ready = false ∧
    (nextOf (Host.Core.run Sys2Proof.core 2 rampRun)).map
      (fun (t : State) => (t.ready, t.kind, t.out.isSome)) = some (true, 0, true) := by decide +kernel

/-- Two states that differ in every register no command can read, before an `INIT`. -/
def noisy : State :=
  { rampRun with cells := 5, rule := 6, order := 7, seed := negOne, kind := 3, pa := 8, cv := 9, tv := 10, delta := 11 }

theorem witness_StepKeepsAgreement :
    rampRun.Agrees noisy ∧ rampRun ≠ noisy ∧ (nextOf (step rampRun)).isSome = true ∧
    orderless.Agrees { orderless with fresh := 1 } ∧
    faultOf (step (feed orderless (.tick full 0))) = some .orderUndefined :=
  ⟨by decide +kernel, by decide +kernel, by decide +kernel, by decide +kernel, by decide +kernel⟩

theorem witness_RunsDoNotDependOnUnspecifiedRegisters :
    rampRun.inputs = noisy.inputs ∧ rampRun.ready = false ∧ noisy.ready = false ∧ rampRun.err = .noError ∧
    noisy.err = .noError ∧ rampRun.out = none ∧ noisy.out = none ∧
    (nextOf (Host.Core.run Sys2Proof.core 2 rampRun)).isSome = true := by decide +kernel

end Sys2Proof.Tests
end

section
/-!
PROOFS. The command words (spec/30_encoding.md R74, R75, R84): what each of the six decodes to, and that a word
which decodes is the word of the instruction it decodes to, so no seventh word is a command.
-/

namespace Sys2Proof.Encoding

/-! ### The six words, one equation each -/

theorem decode_of_cw_nop {c : Command} (h : c.cw = 0x00) : decode c = .ok .nop := by
  unfold decode; rw [h]; rfl

theorem decode_of_cw_initR {c : Command} (h : c.cw = 0x01) :
    decode c = .ok (.initR c.rule c.order c.seed) := by
  unfold decode; rw [h]; rfl

theorem decode_of_cw_initRR {c : Command} (h : c.cw = 0x09) :
    decode c = .ok (.initRR c.rule c.order c.seed) := by
  unfold decode; rw [h]; rfl

theorem decode_of_cw_initB {c : Command} (h : c.cw = 0x11) :
    decode c = .ok (.initB c.rule c.order c.seed) := by
  unfold decode; rw [h]; rfl

theorem decode_of_cw_tick {c : Command} (h : c.cw = 0x02) : decode c = .ok (.tick c.speed c.trig) := by
  unfold decode; rw [h]; rfl

theorem decode_of_cw_bstep {c : Command} (h : c.cw = 0x03) : decode c = .ok .bstep := by
  unfold decode; rw [h]; rfl

/-! ### No other word -/

/-- The fields of R74 partition the word. -/
theorem eq_cwOfFields_of_rsv_zero {w : BitVec 8} (hrsv : cwRsv w = 0) :
    w = cwOfFields (cwKind w) (cwOp w) := by
  have hsplit : cwRsv w ++ cwKind w ++ cwOp w = w := by
    unfold cwRsv cwKind cwOp
    rw [BitVec.extractLsb'_append_extractLsb'_eq_extractLsb' (show 5 = 3 + 2 from rfl),
      BitVec.extractLsb'_append_extractLsb'_eq_extractLsb' (show 3 = 0 + 3 from rfl),
      BitVec.extractLsb'_eq_self]
  rw [hrsv] at hsplit
  exact hsplit.symm

/-- The operations left for `BSTEP` once R84 has ruled out the others. -/
theorem op_eq_three_of_ne {op : BitVec 3} (hlt : ¬ 4 ≤ op.toNat) (h0 : op ≠ 0) (h1 : op ≠ 1) (h2 : op ≠ 2) :
    op = 3 := by
  bv_omega

/-- What the decoding procedure can accept (R84): the word is the one R75 gives the instruction. -/
theorem cw_eq_encodeWord_of_decode_ok {c : Command} {i : Instr} (h : decode c = .ok i) :
    c.cw = encodeWord i := by
  unfold decode at h
  split at h
  · cases h
  next hrsv =>
  rw [eq_cwOfFields_of_rsv_zero (not_not.mp hrsv)]
  split at h
  next hop =>
    rw [hop]
    split at h
    next hkind => cases h; rw [hkind]; rfl
    split at h
    next hkind => cases h; rw [hkind]; rfl
    split at h
    next hkind => cases h; rw [hkind]; rfl
    cases h
  next hop1 =>
    split at h
    · cases h
    next hlt =>
    split at h
    · cases h
    next hkind =>
    rw [not_not.mp hkind]
    split at h
    next hop => cases h; rw [hop]; rfl
    next hop0 =>
    split at h
    next hop => cases h; rw [hop]; rfl
    next hop2 => cases h; rw [op_eq_three_of_ne hlt hop0 hop1 hop2]; rfl

/-- The encoder's words as the numbers of the opcode table (R75). -/
theorem encodeWord_mem_table (i : Instr) :
    encodeWord i ∈ ([0x00, 0x01, 0x09, 0x11, 0x02, 0x03] : List (BitVec 8)) := by
  cases i <;> simp [encodeWord, cwOfFields]

/-- A command word outside the table is refused (R75, R77). -/
theorem decode_error_of_cw_not_mem_table {c : Command}
    (h : c.cw ∉ ([0x00, 0x01, 0x09, 0x11, 0x02, 0x03] : List (BitVec 8))) :
    ∃ e, decode c = .error e := by
  cases hd : decode c with
  | error e => exact ⟨e, rfl⟩
  | ok i => exact absurd (cw_eq_encodeWord_of_decode_ok hd ▸ encodeWord_mem_table i) h

/-- Settles O2: an equation for each of the six words; any other word is refused because a word that decodes is
the word of its instruction. -/
theorem sixCommandWords : Obligations.SixCommandWords := by
  intro c
  refine ⟨decode_of_cw_nop, decode_of_cw_initR, decode_of_cw_initRR, decode_of_cw_initB, decode_of_cw_tick,
    decode_of_cw_bstep, fun hne => decode_error_of_cw_not_mem_table ?_⟩
  simpa using hne

end Sys2Proof.Encoding
end

section
/-!
PROOFS. The automaton update (spec/40_automaton.md R91, R92, R96, R97). Each fact about `evolve` is one about the
window value of a single cell, by `evolve_getLsbD`; so the window value is described once, and then used.
-/

namespace Sys2Proof.Automaton

open Sys2Proof.Machine

/-! ### Rotation (R9) -/

/-- Rotations of a word compose by adding their amounts round the ring. -/
theorem rotr64_rotr64 (v : Word) {m n : Nat} (hm : m < 64) (hn : n < 64) :
    rotr64 (rotr64 v n) m = rotr64 v ((m + n) % 64) := by
  refine BitVec.eq_of_getLsbD_eq fun j hj => ?_
  have hmn : (m + n) % 64 < 64 := Nat.mod_lt _ (by decide)
  rw [rotr64_getLsbD _ hm hj, rotr64_getLsbD _ hn (Nat.mod_lt _ (by decide)), rotr64_getLsbD _ hmn hj,
    Nat.mod_add_mod, Nat.add_mod_mod, Nat.add_assoc]

@[simp] theorem rotr64_zero_amount (v : Word) : rotr64 v 0 = v := by
  refine BitVec.eq_of_getLsbD_eq fun j hj => ?_
  rw [rotr64_getLsbD _ (by decide) hj, Nat.add_zero, Nat.mod_eq_of_lt hj]

theorem rotr64_zero_word (n : Nat) : rotr64 0 n = 0 := by
  simp [rotr64]

theorem rotr64_allOnes {n : Nat} (hn : n < 64) : rotr64 (BitVec.allOnes 64) n = BitVec.allOnes 64 := by
  refine BitVec.eq_of_getLsbD_eq fun j hj => ?_
  rw [rotr64_getLsbD _ hn hj, BitVec.getLsbD_allOnes, BitVec.getLsbD_allOnes]
  simp [hj, Nat.mod_lt]

/-! ### The window value -/

/-- The low `k` bits of a number are the sum of the weights of those that are set. -/
theorem mod_two_pow_eq_sum_testBit (n k : Nat) :
    n % 2 ^ k = ∑ j ∈ Finset.range k, if n.testBit j then 2 ^ j else 0 := by
  induction k with
  | zero => simp [Nat.mod_one]
  | succ k ih =>
    rw [Finset.sum_range_succ, ← ih, Nat.mod_pow_succ, Nat.testBit_eq_decide_div_mod_eq]
    rcases Nat.mod_two_eq_zero_or_one (n / 2 ^ k) with h | h <;> simp [h]

/-- The window of cell `i` is made of the cells from `i - 1` on, the first having weight 1 (R91). -/
theorem windowKey_eq_sum (s : Word) (o : Order) (i : Nat) :
    windowKey s o i = ∑ j ∈ Finset.range o.val, if s.getLsbD ((i + 63 + j) % 64) then 2 ^ j else 0 := by
  have hread (j : Nat) (hj : j < 64) :
      (rotr64 s ((i + 63) % 64)).toNat.testBit j = s.getLsbD ((i + 63 + j) % 64) := by
    rw [BitVec.testBit_toNat, rotr64_getLsbD _ (Nat.mod_lt _ (by decide)) hj, Nat.add_mod_mod, Nat.add_comm j]
  unfold windowKey
  rw [mod_two_pow_eq_sum_testBit]
  refine Finset.sum_congr rfl fun j hj => ?_
  have hjo : j < o.val := Finset.mem_range.mp hj
  rw [hread j (by have := o.property.2; omega)]

/-- A window of `o` cells has `2 ^ o` values. -/
theorem windowKey_lt (s : Word) (o : Order) (i : Nat) : windowKey s o i < 2 ^ o.val :=
  Nat.mod_lt _ (Nat.two_pow_pos _)

/-- The window of cell 1 begins at cell 0, so it reads the low bits of the state. -/
theorem windowKey_one (s : Word) (o : Order) : windowKey s o 1 = s.toNat % 2 ^ o.val := by
  simp [windowKey]

/-- The state whose value is `k` shows `k` in the window of cell 1. -/
theorem windowKey_one_ofNat {o : Order} {k : Nat} (hk : k < 2 ^ o.val) :
    windowKey (BitVec.ofNat 64 k) o 1 = k := by
  have ho : 2 ^ o.val ≤ 2 ^ 64 := Nat.pow_le_pow_right (by decide) (by have := o.property.2; omega)
  rw [windowKey_one, BitVec.toNat_ofNat, Nat.mod_eq_of_lt (hk.trans_le ho), Nat.mod_eq_of_lt hk]

theorem windowKey_zero_state (o : Order) (i : Nat) : windowKey 0 o i = 0 := by
  rw [windowKey, rotr64_zero_word]
  exact Nat.zero_mod _

theorem windowKey_allOnes_state (o : Order) (i : Nat) :
    windowKey (BitVec.allOnes 64) o i = 2 ^ o.val - 1 := by
  rw [windowKey, rotr64_allOnes (Nat.mod_lt _ (by decide)), BitVec.toNat_allOnes]
  refine Nat.eq_of_testBit_eq fun j => ?_
  have ho : o.val ≤ 6 := o.property.2
  rw [Nat.testBit_mod_two_pow, Nat.testBit_two_pow_sub_one, Nat.testBit_two_pow_sub_one]
  by_cases hj : j < o.val
  · simp [hj, show j < 64 by omega]
  · simp [hj]

/-- Rotating the state moves every window with it. -/
theorem windowKey_rotr64 (s : Word) (o : Order) (i : Nat) {n : Nat} (hn : n < 64) :
    windowKey (rotr64 s n) o i = windowKey s o ((i + n) % 64) := by
  unfold windowKey
  rw [rotr64_rotr64 _ (Nat.mod_lt _ (by decide)) hn]
  congr 3
  omega

/-! ### The next cell and the next state -/

/-- A rule-table bit that no window value reaches is not read (R92). -/
theorem nextCell_eq_of_mod_eq (s : Word) {r1 r2 : Word} {o : Order}
    (h : r1.toNat % 2 ^ 2 ^ o.val = r2.toNat % 2 ^ 2 ^ o.val) (i : Nat) :
    nextCell s r1 o i = nextCell s r2 o i := by
  have hbit (r : Word) : nextCell s r o i = (r.toNat % 2 ^ 2 ^ o.val).testBit (windowKey s o i) := by
    rw [Nat.testBit_mod_two_pow, decide_eq_true (windowKey_lt s o i), Bool.true_and]
    rfl
  rw [hbit, hbit, h]

/-- Flipping bit `k` of a word changes that bit. -/
theorem xor_bit_getLsbD_ne (r : Word) {k : Nat} (hk : k < 64) :
    (r ^^^ ((1 : Word) <<< k)).getLsbD k ≠ r.getLsbD k := by
  rw [BitVec.getLsbD_xor, BitVec.getLsbD_shiftLeft]
  simp [hk]

/-- When every cell becomes `b`, so does the whole state. -/
theorem evolve_of_nextCell_const {s rule : Word} {o : Order} {b : Bool}
    (h : ∀ i, nextCell s rule o i = b) :
    evolve s rule o = if b then BitVec.allOnes 64 else 0 := by
  refine BitVec.eq_of_getLsbD_eq fun i hi => ?_
  rw [evolve_getLsbD s rule o hi, h i]
  cases b with
  | false => exact BitVec.getLsbD_zero.symm
  | true => rw [if_pos rfl, BitVec.getLsbD_allOnes, decide_eq_true hi]

/-! ### The statements of the chapter -/

/-- Settles O19: the window value of the cell is the sum of R91. -/
theorem evolveCellByCell : Obligations.EvolveCellByCell := by
  intro s rule o i hi
  rw [evolve_getLsbD s rule o hi, nextCell, windowKey_eq_sum]

/-- Settles O20: no window value reaches a higher bit; and bit `k` is read by cell 1 of the state whose value is
`k`. -/
theorem highRuleBitsAreInert : Obligations.HighRuleBitsAreInert := by
  refine ⟨fun s r1 r2 o h => ?_, fun o k hk => ⟨BitVec.ofNat 64 k, fun r heq => ?_⟩⟩
  · refine BitVec.eq_of_getLsbD_eq fun i hi => ?_
    rw [evolve_getLsbD _ _ _ hi, evolve_getLsbD _ _ _ hi, nextCell_eq_of_mod_eq s h]
  · have hcell (rule : Word) : (evolve (BitVec.ofNat 64 k) rule o).getLsbD 1 = rule.getLsbD k := by
      rw [evolve_getLsbD _ _ _ (by decide), nextCell, windowKey_one_ofNat hk]
    have hk64 : k < 64 := hk.trans_le (Nat.pow_le_pow_right (by decide) o.property.2 : 2 ^ o.val ≤ 2 ^ 6)
    refine xor_bit_getLsbD_ne r hk64 ?_
    rw [← hcell, ← hcell, heq]

/-- Settles O21: every window of a uniform state, and every entry of the zero table, is the same. -/
theorem uniformStatesStayUniform : Obligations.UniformStatesStayUniform := by
  refine fun rule o => ⟨?_, ?_, fun s => ?_⟩
  · exact evolve_of_nextCell_const fun i => by rw [nextCell, windowKey_zero_state]
  · exact evolve_of_nextCell_const fun i => by rw [nextCell, windowKey_allOnes_state]
  · exact evolve_of_nextCell_const (b := false) fun i => BitVec.getLsbD_zero

/-- Settles O22: cell `i` of either side is chosen by the window of cell `i + n` of the state, where `n` is the
amount of the rotation to the right. -/
theorem evolveCommutesWithRotation : Obligations.EvolveCommutesWithRotation := by
  intro s rule o k _
  have hn : (64 - k) % 64 < 64 := Nat.mod_lt _ (by decide)
  refine BitVec.eq_of_getLsbD_eq fun i hi => ?_
  rw [rotr64_getLsbD _ hn hi, evolve_getLsbD _ _ _ hi, evolve_getLsbD _ _ _ (Nat.mod_lt _ (by decide)),
    nextCell, nextCell, windowKey_rotr64 s o i hn]

end Sys2Proof.Automaton
end

section
/-!
PROOFS. The amplitude mapping (spec/42_mapper.md R111, R112, R113). The raw value is monotonic and exact at both
ends, so it stays in range and its word holds it; below the largest state the quotient of R110 is a shift.
-/

namespace Sys2Proof.Mapper

open Sys2Proof.Machine

/-! ### The raw value -/

theorem toAmpRaw_zero : toAmpRaw 0 = -4294967296 := by decide

theorem toAmpRaw_allOnes : toAmpRaw (BitVec.allOnes 64) = 4294967296 := by decide

/-- Rounding down keeps the order of the exact quotients (R112). -/
theorem toAmpRaw_mono {s1 s2 : Word} (h : s1.toNat ≤ s2.toNat) : toAmpRaw s1 ≤ toAmpRaw s2 := by
  have hnum : (s1.toNat : Int) * 2 ^ (Config.fracBits + 1) ≤ s2.toNat * 2 ^ (Config.fracBits + 1) :=
    Int.mul_le_mul_of_nonneg_right (Int.ofNat_le.mpr h) (by decide)
  exact Int.sub_le_sub_right (Int.ediv_le_ediv (by decide) hnum) _

/-- Every state lies between the two whose values are exact (R111). -/
theorem toAmpRaw_range (s : Word) : -4294967296 ≤ toAmpRaw s ∧ toAmpRaw s ≤ 4294967296 := by
  constructor
  · rw [← toAmpRaw_zero]
    exact toAmpRaw_mono (Nat.zero_le _)
  · rw [← toAmpRaw_allOnes]
    exact toAmpRaw_mono (BitVec.toNat_allOnes ▸ Nat.le_sub_one_of_lt s.isLt)

theorem toNat_lt_of_ne_allOnes {s : Word} (h : s ≠ BitVec.allOnes 64) : s.toNat < 18446744073709551615 := by
  have hne : s.toNat ≠ 18446744073709551615 := fun heq => h (BitVec.eq_of_toNat_eq heq)
  have := s.isLt
  omega

/-- The reason of R113: below the largest state, `n * 2^33 / (2^64 - 1)` and `n / 2^31` have one floor. -/
theorem fdiv_maxU64_eq_shift {n : Nat} (h : n < 18446744073709551615) :
    fdiv ((n : Int) * 2 ^ (Config.fracBits + 1)) Config.maxU64 = (n / 2 ^ 31 : Nat) := by
  simp only [fdiv, fracBits_eq, maxU64_eq]
  omega

/-! ### The word -/

/-- The raw value fits the word that holds it (R10). -/
@[simp] theorem toAmp_toInt (s : Word) : (toAmp s).toInt = toAmpRaw s := by
  obtain ⟨hlo, hhi⟩ := toAmpRaw_range s
  exact sfxOfRaw_toInt (by omega) (by omega)

theorem toAmp_toInt_of_ne_allOnes {s : Word} (h : s ≠ BitVec.allOnes 64) :
    (toAmp s).toInt = (s >>> 31).toNat - 4294967296 := by
  rw [toAmp_toInt, toAmpRaw, fdiv_maxU64_eq_shift (toNat_lt_of_ne_allOnes h), one_eq,
    BitVec.toNat_ushiftRight, Nat.shiftRight_eq_div_pow]

/-- Cell 63 alone decides the sign (R113). -/
theorem toAmp_nonneg_iff (s : Word) : 0 ≤ (toAmp s).toInt ↔ s.getLsbD 63 = true := by
  have hcell : s.getLsbD 63 = decide (2 ^ 63 ≤ s.toNat) := BitVec.getLsbD_last s
  by_cases hs : s = BitVec.allOnes 64
  · subst hs
    rw [toAmp_toInt, toAmpRaw_allOnes]
    decide
  · rw [toAmp_toInt_of_ne_allOnes hs, hcell, decide_eq_true_iff, BitVec.toNat_ushiftRight,
      Nat.shiftRight_eq_div_pow]
    omega

/-- A state whose top 33 cells read `k`, the others being clear, has the amplitude `k - 2^32`. -/
theorem toAmp_toInt_ofNat_mul {k : Nat} (hk : k < 2 ^ 33) :
    (toAmp (BitVec.ofNat 64 (k * 2 ^ 31))).toInt = k - 4294967296 := by
  have hval : (BitVec.ofNat 64 (k * 2 ^ 31)).toNat = k * 2 ^ 31 :=
    (BitVec.toNat_ofNat _ _).trans (Nat.mod_eq_of_lt (by omega))
  rw [toAmp_toInt, toAmpRaw, hval, fdiv_maxU64_eq_shift (by omega), Nat.mul_div_cancel _ (by decide), one_eq]

/-! ### The statements of the chapter -/

/-- Settles O26: the largest value is that of the largest state, and any other is `k - 2^32` for the number `k` its
top 33 cells read. -/
theorem amplitudeIsMonotonic : Obligations.AmplitudeIsMonotonic := by
  refine ⟨fun s1 s2 h => ?_, ⟨0, 1, by decide, rfl⟩, fun v ⟨hlo, hhi⟩ => ?_⟩
  · rw [toAmp_toInt, toAmp_toInt]
    exact toAmpRaw_mono h
  · by_cases htop : v = 4294967296
    · exact ⟨BitVec.allOnes 64, by rw [toAmp_toInt, toAmpRaw_allOnes, htop]⟩
    · refine ⟨BitVec.ofNat 64 ((v + 4294967296).toNat * 2 ^ 31), ?_⟩
      rw [toAmp_toInt_ofNat_mul (by omega)]
      omega

/-- Settles O27: the shift, its one exception and the sign. -/
theorem amplitudeClosedForm : Obligations.AmplitudeClosedForm := by
  refine fun s => ⟨toAmp_toInt_of_ne_allOnes, fun hs => ?_, toAmp_nonneg_iff s⟩
  rw [toAmp_toInt, hs, toAmpRaw_allOnes]

/-- Settles O25: both ends are exact, and monotonicity keeps every state between them. -/
theorem amplitudeRange : Obligations.AmplitudeRange := by
  simp only [Obligations.AmplitudeRange, toAmp_toInt]
  exact ⟨toAmpRaw_zero, toAmpRaw_allOnes, toAmpRaw_range⟩

end Sys2Proof.Mapper
end

section
/-!
PROOFS. The operand checks of an `INIT` and what follows from their outcome (spec/43_ramp.md R120,
spec/60_exceptions.md R174, R175, R178): an equation for each outcome, from the operands.
-/

namespace Sys2Proof.InitRules

open Sys2Proof.Machine

/-! ### The operand checks (R178) -/

/-- The seeds that `INIT` accepts (R175, R105). -/
theorem admissible_iff (sd : SeedValue) :
    admissible sd = true ↔ sd.neg = false ∨ (sd.int = 0 ∧ sd.frac.toNat < 512) := by
  simp only [admissible, nearZero, Bool.or_eq_true, Bool.and_eq_true, Bool.not_eq_true', beq_iff_eq,
    decide_eq_true_iff]
  rfl

theorem checkInit_of_order_out_of_range {order : Word} (sd : SeedValue) (h : order.toNat < 1 ∨ 6 < order.toNat) :
    checkInit order sd = .error .orderRange := by
  have hnone : legalOrder order.toNat = none := dif_neg (by omega)
  rw [checkInit, hnone]

theorem checkInit_of_not_admissible {order : Word} {sd : SeedValue} (h1 : 1 ≤ order.toNat) (h6 : order.toNat ≤ 6)
    (hsd : ¬ admissible sd = true) : checkInit order sd = .error .seedNegative := by
  rw [checkInit, legalOrder_of_range h1 h6]
  exact if_neg hsd

theorem checkInit_of_admissible {order : Word} {sd : SeedValue} {o : Order} (ho : o.val = order.toNat)
    (hsd : admissible sd = true) : checkInit order sd = .ok o := by
  obtain ⟨h1, h6⟩ := o.property
  rw [checkInit, ← ho, legalOrder_of_range h1 h6]
  exact if_pos hsd

/-- Both causes of a failed check end what was running (R172). -/
theorem endsInstance_of_checkInit_error {order : Word} {sd : SeedValue} {c : Cause}
    (h : checkInit order sd = .error c) : endsInstance c = true := by
  rcases checkInit_error h with ⟨-, rfl⟩ | ⟨-, -, rfl⟩ <;> rfl

/-! ### The outcomes of the two ramp `INIT`s (R120, R140) -/

/-- A cause that ends what was running clears `READY` and is recorded (R172). -/
theorem raiseErr_of_endsInstance {c : Cause} (h : endsInstance c = true) (s : State) :
    raiseErr c s = { s with ready := false, err := if s.err = .noError then c else s.err } := by
  simp [raiseErr, h]

theorem execInitR_of_check_error {order : Word} {sd : SeedValue} {c : Cause} (h : checkInit order sd = .error c)
    (rule : Word) (s : State) :
    execInitR rule order sd s =
      .next { s with ready := false, err := if s.err = .noError then c else s.err } := by
  rw [execInitR, h, ← raiseErr_of_endsInstance (endsInstance_of_checkInit_error h)]

theorem execInitR_of_check_ok {order : Word} {sd : SeedValue} {o : Order} (h : checkInit order sd = .ok o)
    (rule : Word) (s : State) :
    execInitR rule order sd s = .next (startRamp (startInstance Config.kindRamp rule order o sd s)) := by
  rw [execInitR, h]

theorem execInitRR_of_check_error {order : Word} {sd : SeedValue} {c : Cause} (h : checkInit order sd = .error c)
    (rule : Word) (s : State) :
    execInitRR rule order sd s =
      .next { s with ready := false, err := if s.err = .noError then c else s.err } := by
  rw [execInitRR, h, ← raiseErr_of_endsInstance (endsInstance_of_checkInit_error h)]

theorem execInitRR_of_check_ok {order : Word} {sd : SeedValue} {o : Order} (h : checkInit order sd = .ok o)
    (rule : Word) (s : State) :
    execInitRR rule order sd s = .next (startRamp (startInstance Config.kindRRamp rule order o sd s)) := by
  rw [execInitRR, h]

/-- The latched width is the operand's low three bits, which hold all of a legal order (R23). -/
theorem setWidth_eq_ofNat_order {order : Word} {o : Order} (ho : o.val = order.toNat) :
    order.setWidth 3 = BitVec.ofNat 3 o.val := by
  rw [ho, BitVec.ofNat_toNat]

/-- Settles O29: the word is one of the six, and each clause is one outcome of the operand checks. -/
theorem initRStartsARamp : Obligations.InitRStartsARamp := by
  refine ⟨fun c => Encoding.decode_of_cw_initR, fun rule order seed s => ⟨fun horder => ?_, ?_, ?_⟩⟩
  · exact execInitR_of_check_error (checkInit_of_order_out_of_range seed horder) rule s
  · rintro ⟨h1, h6, hneg, hfar⟩
    have hsd : ¬ admissible seed = true := by
      rw [admissible_iff, hneg]
      rintro (hpos | ⟨hint, hfrac⟩)
      · cases hpos
      · exact hfar.elim (fun h => h hint) (fun h => absurd hfrac (by omega))
    exact execInitR_of_check_error (checkInit_of_not_admissible h1 h6 hsd) rule s
  · intro o ho hsd
    have hcheck := checkInit_of_admissible ho ((admissible_iff seed).mpr hsd)
    rw [← setWidth_eq_ofNat_order ho]
    exact execInitR_of_check_ok hcheck rule s

end Sys2Proof.InitRules
end

section
/-!
PROOFS. The two ramp kinds (spec/43_ramp.md R139). Nothing after the trigger fragment of a `TICK` looks at `KIND`,
so with no active trigger writing `KIND` before the command or after it gives the same.
-/

namespace Sys2Proof.RampKinds

open Sys2Proof.Machine Sys2Proof.InitRules

/-- The state with another value in `KIND`, all else the same. -/
def withKind (k : BitVec 2) (s : State) : State := { s with kind := k }

/-- `f` applied to the next state, if there is one. -/
def mapNext (f : State → State) : Host.Outcome State Fault Refusal → Host.Outcome State Fault Refusal
  | .next t => .next (f t)
  | .fault r => .fault r
  | .refused r => .refused r

theorem applyTrigger_of_inactive {trig : Sfx} {s : State}
    (h : ¬ (s.kind = Config.kindRRamp ∧ triggerActive trig = true)) : applyTrigger trig s = .ok s :=
  if_neg h

@[simp] theorem withKind_kind (k : BitVec 2) (s : State) : (withKind k s).kind = k := rfl
@[simp] theorem withKind_ready (k : BitVec 2) (s : State) : (withKind k s).ready = s.ready := rfl

/-- Steps 1 and 2 do not look at `KIND` (R124, R125). -/
theorem advance_withKind (mag : Nat) (k : BitVec 2) (s : State) :
    advance mag (withKind k s) = (advance mag s).map (withKind k) := by
  unfold advance
  dsimp only [withKind]
  split
  · cases legalOrder s.order.toNat <;> rfl
  · rfl

/-- With the trigger inactive only the check for kind `BLOCK` looks at `KIND` (R122). -/
theorem execTick_withKind_rramp {speed trig : Sfx} {s : State} (hkind : s.kind = Config.kindRamp)
    (htrig : triggerActive trig = false) :
    execTick speed trig (withKind Config.kindRRamp s) =
      mapNext (withKind Config.kindRRamp) (execTick speed trig s) := by
  have hramp : s.kind ≠ Config.kindBlock := by rw [hkind]; decide
  have hrramp : Config.kindRRamp ≠ Config.kindBlock := by decide
  unfold execTick
  rw [withKind_kind, withKind_ready, if_neg hramp, if_neg hrramp, applyTrigger_of_inactive (by simp [htrig]),
    applyTrigger_of_inactive (by simp [htrig])]
  by_cases hready : s.ready = false
  · rw [if_pos hready, if_pos hready]
    rfl
  rw [if_neg hready, if_neg hready]
  by_cases hfrozen : frozen speed = true
  · rw [if_pos hfrozen, if_pos hfrozen]
    rfl
  rw [if_neg hfrozen, if_neg hfrozen]
  dsimp only
  rw [advance_withKind]
  cases advance (absSfx speed) s <;> rfl

/-- The same operand check, then the same writes but for `KIND` (R139, R140). -/
theorem execInitRR_of_execInitR {rule order : Word} {sd : SeedValue} {s t : State}
    (h : execInitR rule order sd s = .next t) :
    execInitRR rule order sd s = .next (if t.ready = true then withKind Config.kindRRamp t else t) := by
  rcases execInitR_next h with ⟨c, hcheck, rfl⟩ | ⟨o, hcheck, rfl⟩
  · rw [execInitRR_of_check_error hcheck, raiseErr_of_endsInstance (endsInstance_of_checkInit_error hcheck)]
    rfl
  · rw [execInitRR_of_check_ok hcheck]
    rfl

/-- Settles O39: both kinds of outcome of a `TICK` by `execTick_withKind_rramp`, and the `INIT`s by their common
check. -/
theorem rampKindsAgreeWithoutTrigger : Obligations.RampKindsAgreeWithoutTrigger := by
  refine ⟨fun speed trig s hkind htrig => ?_, fun rule order seed s t h => execInitRR_of_execInitR h⟩
  have hinactive : triggerActive trig = false := decide_eq_false (not_le.mpr htrig)
  have htick := execTick_withKind_rramp (speed := speed) hkind hinactive
  exact ⟨fun t ht => htick.trans (congrArg _ ht), fun f hf => htick.trans (congrArg _ hf)⟩

end Sys2Proof.RampKinds
end

section
/-!
PROOFS. Constant speed between generations (spec/43_ramp.md R135). At a constant magnitude `m` the ramp rises by at
most `DELTA * m / ONE` a tick while `PA` falls by `m`, so how close `CV` may be to `TV` is bounded by `PA` alone; and
while a tick of magnitude `m` leaves `PA` at `EPS` or above, that bound keeps `CV` strictly below `TV`.
-/

namespace Sys2Proof.ConstantSpeed

open Sys2Proof.Machine Sys2Proof.Mapper Sys2Proof.RampKinds

/-! ### The catch-up loop (R125, R131) -/

/-- What the last iteration of the loop leaves: the target and the basis of the state reached, and an accumulator
between `lo` and `ONE + EPS`. -/
structure Landed (cv : Sfx) (lo : Int) (g : LoopRegs) : Prop where
  tv : g.tv = toAmp g.cells
  delta : g.delta = sfxOfRaw (g.tv.toInt - cv.toInt)
  lo_le_pa : lo ≤ g.pa
  pa_lt : g.pa < Config.one + Config.epsRaw

theorem landed_generation (rule : Word) (o : Order) (cv : Sfx) {lo : Int} {g : LoopRegs} (hlo : lo ≤ g.pa)
    (hdue : g.pa < Config.epsRaw) : Landed cv lo (generation rule o cv g) where
  tv := rfl
  delta := rfl
  lo_le_pa := hlo.trans (Int.le_add_of_nonneg_right (by decide))
  pa_lt := (Int.add_comm _ _).trans_lt (Int.add_lt_add_left hdue _)

theorem landed_catchUp (rule : Word) (o : Order) {cv : Sfx} {lo : Int} (fuel : Nat) {g : LoopRegs}
    (h : Landed cv lo g) : Landed cv lo (catchUp rule o cv fuel g) := by
  induction fuel generalizing g with
  | zero => exact h
  | succ n ih =>
    by_cases hdue : g.pa < Config.epsRaw
    · rw [catchUp_of_lt rule o cv n hdue]
      exact ih (landed_generation rule o cv h.lo_le_pa hdue)
    · rwa [catchUp_of_le rule o cv (n + 1) hdue]

/-- The closed form of R130 counts at least one generation when one is due. -/
theorem generationsDue_pos {pa : Int} (h : pa < Config.epsRaw) : 0 < generationsDue pa := by
  simp only [generationsDue, fdiv, epsRaw_eq, one_eq] at h ⊢
  omega

/-- Where the loop lands when a generation is due. -/
theorem landed_catchUp_generationsDue (rule : Word) (o : Order) (cv : Sfx) {g : LoopRegs}
    (hdue : g.pa < Config.epsRaw) : Landed cv g.pa (catchUp rule o cv (generationsDue g.pa) g) := by
  obtain ⟨n, hn⟩ := Nat.exists_eq_succ_of_ne_zero (generationsDue_pos hdue).ne'
  rw [hn, catchUp_of_lt rule o cv n hdue]
  exact landed_catchUp rule o n (landed_generation rule o cv le_rfl hdue)

/-! ### The frame of steps 1 and 2 and of the trigger fragment -/

/-- The trigger fragment writes no ramp register but `PA`, and that with 0 (R141). -/
theorem applyTrigger_frame {trig : Sfx} {s t : State} (h : applyTrigger trig s = .ok t) :
    t.cv = s.cv ∧ t.ready = s.ready ∧ t.kind = s.kind := by
  rcases applyTrigger_ok h with ⟨-, rfl⟩ | ⟨-, -, hreseed⟩
  · exact ⟨rfl, rfl, rfl⟩
  · obtain ⟨o, -, -, rfl⟩ := reseed_ok hreseed
    exact ⟨rfl, rfl, rfl⟩

theorem advance_frame {mag : Nat} {s t : State} (h : advance mag s = .ok t) :
    t.cv = s.cv ∧ t.ready = s.ready ∧ t.kind = s.kind := by
  rcases advance_ok h with ⟨-, rfl⟩ | ⟨-, o, g, -, -, rfl⟩ <;> exact ⟨rfl, rfl, rfl⟩

@[simp] theorem sfx_zero_toInt : (0 : Sfx).toInt = 0 := rfl

/-- An accumulator in range, or cleared by the trigger, is not negative, and whichever of the two makes the tick
generate, the loop is due (R131, R145). -/
theorem applyTrigger_pa_of_due {mag : Nat} {trig : Sfx} {s t : State} (h : applyTrigger trig s = .ok t)
    (hpa : 0 ≤ s.pa.toInt) (hmag : 512 ≤ mag)
    (hdue : s.pa.toInt - mag < 512 ∨ (s.kind = 1 ∧ 512 ≤ trig.toInt.natAbs)) :
    0 ≤ t.pa.toInt ∧ t.pa.toInt - mag < Config.epsRaw := by
  rcases applyTrigger_ok h with ⟨hinactive, rfl⟩ | ⟨-, -, hreseed⟩
  · refine ⟨hpa, hdue.resolve_right fun ⟨hkind, htrig⟩ => hinactive ⟨hkind, ?_⟩⟩
    exact decide_eq_true htrig
  · obtain ⟨o, -, -, rfl⟩ := reseed_ok hreseed
    simp only [sfx_zero_toInt, epsRaw_eq]
    omega

/-! ### Steps 3 to 5 (R126 to R128) -/

/-- The rounding of `inc` is toward minus infinity (R127). -/
theorem one_mul_rampInc_le (delta : Sfx) (mag : Nat) :
    Config.one * rampInc delta mag ≤ delta.toInt * mag :=
  Int.mul_ediv_self_le (by decide)

theorem rampInc_nonneg {delta : Sfx} (h : 0 ≤ delta.toInt) (mag : Nat) : 0 ≤ rampInc delta mag :=
  Int.ediv_nonneg (Int.mul_nonneg h (Int.natCast_nonneg mag)) (by decide)

theorem rampInc_nonpos {delta : Sfx} (h : delta.toInt ≤ 0) (mag : Nat) : rampInc delta mag ≤ 0 := by
  have hprod : delta.toInt * mag ≤ 0 := Int.mul_nonpos_of_nonpos_of_nonneg h (Int.natCast_nonneg mag)
  have hinc := one_mul_rampInc_le delta mag
  rw [one_eq] at hinc
  omega

/-- A raw value between those of two words fits a word. -/
theorem sfxOfRaw_toInt_of_between {a b : Sfx} {r : Int} (ha : a.toInt ≤ r) (hb : r ≤ b.toInt) :
    (sfxOfRaw r).toInt = r :=
  sfxOfRaw_toInt ((BitVec.le_toInt a).trans ha) (hb.trans_lt BitVec.toInt_lt)

theorem ramp_cv_of_rising {s : State} (hdir : s.cv.toInt < s.tv.toInt) (hdelta : 0 ≤ s.delta.toInt) (mag : Nat) :
    (ramp mag s).cv.toInt = min (s.cv.toInt + rampInc s.delta mag) s.tv.toInt := by
  have hinc := rampInc_nonneg hdelta mag
  rw [ramp_cv, rising, if_pos (decide_eq_true hdir),
    sfxOfRaw_toInt_of_between (a := s.cv) (b := s.tv) (by omega) (by omega)]

theorem ramp_cv_of_falling {s : State} (hdir : s.tv.toInt ≤ s.cv.toInt) (hdelta : s.delta.toInt ≤ 0) (mag : Nat) :
    (ramp mag s).cv.toInt = max (s.cv.toInt + rampInc s.delta mag) s.tv.toInt := by
  have hinc := rampInc_nonpos hdelta mag
  rw [ramp_cv, rising, if_neg (by simpa using hdir),
    sfxOfRaw_toInt_of_between (a := s.tv) (b := s.cv) (by omega) (by omega)]

/-! ### What a constant magnitude keeps (R135) -/

/-- Between step 2 and step 3: the basis points at the target, and a rising ramp is at least as far from it as the
generation has time left. -/
structure Poised (s : State) : Prop where
  aims : 0 < s.delta.toInt ↔ s.cv.toInt < s.tv.toInt
  distance : 0 < s.delta.toInt →
    Config.one * (s.cv.toInt - s.tv.toInt) ≤ s.delta.toInt * (Config.epsRaw - 1 - s.pa.toInt)

/-- Between two ticks of magnitude `m` of one generation: a ramp that does not rise is not below its target, and a
rising one has gone no further than ticks of magnitude `m` can have taken it. -/
structure OnCourse (m : Nat) (s : State) : Prop where
  falling : s.delta.toInt ≤ 0 → s.tv.toInt ≤ s.cv.toInt
  distance : 0 < s.delta.toInt →
    Config.one * (s.cv.toInt - s.tv.toInt) ≤ s.delta.toInt * (Config.epsRaw - 1 - s.pa.toInt + m)

/-- `CV` of `t` lies between `CV` of `s` and the target of `t`, inclusive. -/
def DoesNotOvershoot (s t : State) : Prop :=
  min s.cv.toInt t.tv.toInt ≤ t.cv.toInt ∧ t.cv.toInt ≤ max s.cv.toInt t.tv.toInt

/-- A ramp that aims at its target moves toward it and is clamped there (R128). -/
theorem finishTick_doesNotOvershoot {s : State} (h : Poised s) (m : Nat) :
    DoesNotOvershoot s (finishTick m s) := by
  unfold DoesNotOvershoot
  simp only [finishTick_cv, finishTick_tv]
  by_cases hdelta : 0 < s.delta.toInt
  · have hinc := rampInc_nonneg hdelta.le m
    have hdir := h.aims.mp hdelta
    rw [ramp_cv_of_rising hdir hdelta.le]
    omega
  · have hinc := rampInc_nonpos (not_lt.mp hdelta) m
    have hdir := not_lt.mp fun hlt => hdelta (h.aims.mpr hlt)
    rw [ramp_cv_of_falling hdir (not_lt.mp hdelta)]
    omega

/-- The ramp of a tick costs a rising ramp at most `DELTA * m / ONE` of its distance. -/
theorem onCourse_finishTick {s : State} (h : Poised s) (m : Nat) : OnCourse m (finishTick m s) where
  falling hdelta := by
    have hdir := not_lt.mp fun hlt => not_lt.mpr hdelta (h.aims.mpr hlt)
    exact (le_max_right _ _).trans_eq (ramp_cv_of_falling hdir hdelta m).symm
  distance hdelta := by
    simp only [finishTick_delta, finishTick_cv, finishTick_tv, finishTick_pa] at hdelta ⊢
    have hcv := ramp_cv_of_rising (h.aims.mp hdelta) hdelta.le m
    calc Config.one * ((ramp m s).cv.toInt - s.tv.toInt)
        ≤ Config.one * (s.cv.toInt + rampInc s.delta m - s.tv.toInt) :=
          Int.mul_le_mul_of_nonneg_left (by omega) (by decide)
      _ = Config.one * (s.cv.toInt - s.tv.toInt) + Config.one * rampInc s.delta m := by ring
      _ ≤ s.delta.toInt * (Config.epsRaw - 1 - s.pa.toInt) + s.delta.toInt * m :=
          Int.add_le_add (h.distance hdelta) (one_mul_rampInc_le _ _)
      _ = s.delta.toInt * (Config.epsRaw - 1 - s.pa.toInt + m) := by ring

/-- The loop leaves the whole basis to go and at most `ONE + EPS - 1` in the accumulator. -/
theorem poised_of_generation {mag : Nat} {s t : State} (h : advance mag s = .ok t)
    (hpa : 0 ≤ s.pa.toInt) (hmag : mag ≤ 9223372036854775808) (hdue : s.pa.toInt - mag < Config.epsRaw)
    (hcv : -Config.one ≤ s.cv.toInt ∧ s.cv.toInt < 3 * Config.one) : Poised t := by
  rcases advance_ok h with ⟨hnone, -⟩ | ⟨-, o, g, -, hg, rfl⟩
  · exact absurd hdue hnone
  have hland : Landed s.cv (s.pa.toInt - mag) g := by
    rw [hg]
    exact landed_catchUp_generationsDue s.rule o s.cv
      (g := { cells := s.cells, tv := s.tv, delta := s.delta, pa := s.pa.toInt - mag }) hdue
  obtain ⟨htv, hdelta, hlo, hhi⟩ := hland
  simp only [one_eq, epsRaw_eq] at hcv hhi
  have hamp := toAmpRaw_range g.cells
  rw [← toAmp_toInt, ← htv] at hamp
  have hbasis : g.delta.toInt = g.tv.toInt - s.cv.toInt := by
    rw [hdelta, sfxOfRaw_toInt (by omega) (by omega)]
  have hacc : (sfxOfRaw g.pa).toInt = g.pa := sfxOfRaw_toInt (by omega) (by omega)
  refine ⟨by dsimp only; omega, fun hpos => ?_⟩
  dsimp only at hpos ⊢
  rw [hacc, show s.cv.toInt - g.tv.toInt = -g.delta.toInt by omega, one_eq, epsRaw_eq]
  calc 4294967296 * -g.delta.toInt = g.delta.toInt * -4294967296 := by ring
    _ ≤ g.delta.toInt * ((512 : Nat) - 1 - g.pa) := Int.mul_le_mul_of_nonneg_left (by omega) hpos.le

/-- With no generation due, the distance kept so far still reaches over the coming ramp, and so is not used up. -/
theorem poised_of_no_generation {m : Nat} {s t : State} (h : advance m s = .ok t) (hs : OnCourse m s)
    (hpa : 512 ≤ s.pa.toInt - m) : Poised t ∧ t.tv = s.tv := by
  rcases advance_ok h with ⟨-, rfl⟩ | ⟨hdue, -⟩
  swap
  · exact absurd hdue (not_lt.mpr hpa)
  refine ⟨?_, rfl⟩
  have hacc : (sfxOfRaw (s.pa.toInt - m)).toInt = s.pa.toInt - m :=
    sfxOfRaw_toInt_of_between (a := 0) (b := s.pa) (by rw [sfx_zero_toInt]; omega) (by omega)
  constructor
  · dsimp only
    refine ⟨fun hdelta => ?_, fun hdir => not_le.mp fun hdelta => not_lt.mpr (hs.falling hdelta) hdir⟩
    have hdist := hs.distance hdelta
    rw [one_eq, epsRaw_eq] at hdist
    have hleft : s.delta.toInt * ((512 : Nat) - 1 - s.pa.toInt + m) < 0 :=
      Int.mul_neg_of_pos_of_neg hdelta (by omega)
    linarith
  · dsimp only
    intro hdelta
    rw [hacc, show (Config.epsRaw : Int) - 1 - (s.pa.toInt - m) = Config.epsRaw - 1 - s.pa.toInt + m by ring]
    exact hs.distance hdelta

/-! ### One tick -/

/-- A frozen `TICK` emits `CV` and does nothing else (R123). -/
theorem execTick_of_frozen {speed : Sfx} {s : State} (hs : s.RampReady) (hspeed : speed.toInt.natAbs < 512)
    (trig : Sfx) : execTick speed trig s = .next (emit s.cv s) := by
  have hfrozen : frozen speed = true := decide_eq_true hspeed
  simp [execTick, hs.1, hs.2, hfrozen]

/-- What a `TICK` that is not frozen can do on a ready ramp kind (R122). -/
theorem execTick_next_of_not_frozen {speed trig : Sfx} {s t : State} (hs : s.RampReady)
    (hspeed : 512 ≤ speed.toInt.natAbs) (h : execTick speed trig s = .next t) :
    ∃ s1 s2, applyTrigger trig s = .ok s1 ∧ advance speed.toInt.natAbs s1 = .ok s2 ∧
      t = finishTick speed.toInt.natAbs s2 := by
  have hfrozen : frozen speed ≠ true := fun hf => absurd (of_decide_eq_true hf) (not_lt.mpr hspeed)
  rcases execTick_next h with ⟨hready, -⟩ | ⟨-, hkind, -⟩ | ⟨-, -, hf, -⟩ | ⟨-, -, -, hsteps⟩
  · exact absurd (hs.1.symm.trans hready) (by decide)
  · exact absurd hkind hs.2
  · exact absurd hf hfrozen
  · exact hsteps

/-- What `OnCourse` needs beside it from tick to tick: an engine of kind `k` that accepts a `TICK`, whose ramp is
on course. -/
structure Running (k : BitVec 2) (m : Nat) (s : State) : Prop where
  ready : s.RampReady
  kind : s.kind = k
  onCourse : OnCourse m s

/-- The tick that generates puts the ramp on course, and does not overshoot itself. -/
theorem running_of_generating_tick {speed trig : Sfx} {s t : State} (hinv : s.Inv) (hs : s.RampReady)
    (hspeed : 512 ≤ speed.toInt.natAbs)
    (hdue : s.pa.toInt - speed.toInt.natAbs < 512 ∨ (s.kind = 1 ∧ 512 ≤ trig.toInt.natAbs))
    (h : execTick speed trig s = .next t) :
    Running s.kind speed.toInt.natAbs t ∧ DoesNotOvershoot s t := by
  obtain ⟨-, hramp⟩ := hinv hs.1
  obtain ⟨⟨-, hcv, -, hpa, -⟩, -⟩ := hramp hs.2
  have hpa0 : 0 ≤ s.pa.toInt := by
    rcases hpa with hzero | ⟨hlo, -⟩
    · rw [hzero, sfx_zero_toInt]
    · rw [epsRaw_eq] at hlo
      omega
  obtain ⟨s1, s2, htrigger, hadvance, rfl⟩ := execTick_next_of_not_frozen hs hspeed h
  obtain ⟨hcv1, hready1, hkind1⟩ := applyTrigger_frame htrigger
  obtain ⟨hcv2, hready2, hkind2⟩ := advance_frame hadvance
  obtain ⟨hpa1, hdue1⟩ := applyTrigger_pa_of_due htrigger hpa0 hspeed hdue
  have hpoised := poised_of_generation hadvance hpa1 (absSfx_le speed) hdue1 (hcv1 ▸ hcv)
  have hkind := hkind2.trans hkind1
  refine ⟨⟨⟨(hready2.trans hready1).trans hs.1, ?_⟩, hkind, onCourse_finishTick hpoised _⟩, ?_⟩
  · exact hkind.trans_ne hs.2
  · have hmove := finishTick_doesNotOvershoot hpoised speed.toInt.natAbs
    rwa [DoesNotOvershoot, hcv2.trans hcv1] at hmove

/-- A later tick, frozen or of magnitude `m` with no generation due, keeps the ramp on course toward the same
target and does not overshoot. -/
theorem running_of_tick {k : BitVec 2} {m : Nat} {speed trig : Sfx} {s t : State} (hs : Running k m s)
    (hm : 512 ≤ m) (h : execTick speed trig s = .next t)
    (hcase : speed.toInt.natAbs < 512 ∨
      (speed.toInt.natAbs = m ∧ 512 ≤ s.pa.toInt - m ∧ (k = 1 → trig.toInt.natAbs < 512))) :
    Running k m t ∧ t.tv = s.tv ∧ DoesNotOvershoot s t := by
  rcases hcase with hfrozen | ⟨rfl, hpa, htrig⟩
  · rw [execTick_of_frozen hs.ready hfrozen] at h
    cases h
    refine ⟨⟨hs.ready, hs.kind, hs.onCourse.falling, hs.onCourse.distance⟩, rfl, ?_⟩
    exact ⟨min_le_left _ _, le_max_left _ _⟩
  · obtain ⟨s1, s2, htrigger, hadvance, rfl⟩ := execTick_next_of_not_frozen hs.ready hm h
    have hinactive : ¬ (s.kind = Config.kindRRamp ∧ triggerActive trig = true) := fun ⟨hkind, hactive⟩ =>
      not_le.mpr (htrig (hs.kind.symm.trans hkind)) (of_decide_eq_true hactive)
    rw [applyTrigger_of_inactive hinactive] at htrigger
    cases htrigger
    obtain ⟨hcv, hready, hkind⟩ := advance_frame hadvance
    obtain ⟨hpoised, htv⟩ := poised_of_no_generation hadvance hs.onCourse hpa
    refine ⟨⟨⟨hready.trans hs.ready.1, hkind.trans_ne hs.ready.2⟩, hkind.trans hs.kind,
      onCourse_finishTick hpoised _⟩, htv, ?_⟩
    have hmove := finishTick_doesNotOvershoot hpoised speed.toInt.natAbs
    rwa [DoesNotOvershoot, hcv] at hmove

/-- Settles O46: the generating tick puts the ramp on course and every later tick keeps it so, by induction on the
number of ticks. -/
theorem constantSpeedDoesNotOvershoot : Obligations.ConstantSpeedDoesNotOvershoot := by
  intro m speed trig s u k hinv hs hm hspeed hdue hfirst hlater
  subst hspeed
  obtain ⟨hrun0, hmove0⟩ := running_of_generating_tick hinv hs hm hdue hfirst
  have hrun : ∀ j, j ≤ k → Running s.kind (speed 0).toInt.natAbs (u j) := by
    intro j
    induction j with
    | zero => exact fun _ => hrun0
    | succ j ih =>
      intro hj
      obtain ⟨htick, hcase⟩ := hlater j hj
      exact (running_of_tick (ih (by omega)) hm htick hcase).1
  refine ⟨hmove0, fun j hj => ?_⟩
  obtain ⟨htick, hcase⟩ := hlater j hj
  obtain ⟨-, htv, hmove⟩ := running_of_tick (hrun j hj.le) hm htick hcase
  rw [DoesNotOvershoot, htv] at hmove
  exact ⟨htv, hmove⟩

end Sys2Proof.ConstantSpeed
end

section
/-!
PROOFS. The resettable ramp (spec/44_resettable.md): `INIT.RR` (R140), and what the trigger port of a `TICK` can do
(R141 to R143, R147). Only the trigger fragment reads `trig`, and of it only whether its magnitude reaches `EPS`; the
catch-up loop then runs exactly as often as the closed form of R130 says, from the cells the fragment leaves.
-/

namespace Sys2Proof.Resettable

open Sys2Proof.Machine Sys2Proof.InitRules Sys2Proof.RampKinds Sys2Proof.ConstantSpeed

/-! ### The trigger fragment (R141, R143, R147) -/

theorem triggerActive_iff (trig : Sfx) : triggerActive trig = true ↔ 512 ≤ trig.toInt.natAbs :=
  decide_eq_true_iff

theorem legalOrder_of_val {o : Order} {n : Nat} (ho : o.val = n) : legalOrder n = some o := by
  subst ho
  exact legalOrder_of_range o.property.1 o.property.2

theorem applyTrigger_of_active {trig : Sfx} {s : State} (hkind : s.kind = Config.kindRRamp)
    (hactive : triggerActive trig = true) : applyTrigger trig s = reseed s :=
  if_pos ⟨hkind, hactive⟩

/-- Where R95 and R100 define the reseed. -/
theorem reseed_of_admissible {s : State} {o : Order} (ho : o.val = s.order.toNat)
    (hseed : admissible s.seed = true) :
    reseed s = .ok { s with cells := seedState s.seed s.rule o, pa := 0 } := by
  rw [reseed, legalOrder_of_val ho]
  exact if_pos hseed

/-- Nothing but the trigger fragment of a `TICK` reads the `trig` port (R122). -/
theorem execTick_congr_of_applyTrigger {trig trig' : Sfx} {s : State}
    (h : applyTrigger trig s = applyTrigger trig' s) (speed : Sfx) :
    execTick speed trig s = execTick speed trig' s := by
  unfold execTick
  rw [h]

/-! ### The catch-up loop (R125, R130) -/

/-- While the accumulator is below `EPS` before each of `n` iterations, all `n` of them evolve the cells. -/
theorem catchUp_cells_of_due (rule : Word) (o : Order) (cv : Sfx) (n : Nat) {g : LoopRegs}
    (hdue : g.pa + Config.one * n < Config.epsRaw + Config.one) :
    (catchUp rule o cv n g).cells = (fun x => evolve x rule o)^[n] g.cells := by
  induction n generalizing g with
  | zero => rfl
  | succ n ih =>
    rw [one_eq, epsRaw_eq] at hdue
    have hlt : g.pa < (Config.epsRaw : Int) := by
      rw [epsRaw_eq]
      omega
    have hnext : (generation rule o cv g).pa + Config.one * n < Config.epsRaw + Config.one := by
      simp only [generation, one_eq, epsRaw_eq]
      omega
    rw [catchUp_of_lt rule o cv n hlt, ih hnext, Function.iterate_succ_apply]
    rfl

/-- The iterations that the closed form counts are all due (R130). -/
theorem one_mul_generationsDue_lt {pa : Int} (h : pa < Config.epsRaw) :
    pa + Config.one * generationsDue pa < Config.epsRaw + Config.one := by
  simp only [generationsDue, fdiv, epsRaw_eq, one_eq] at h ⊢
  omega

theorem generationsDue_neg (mag : Nat) :
    generationsDue (0 - (mag : Int)) = (512 + mag + 4294967296 - 1) / 4294967296 := by
  simp only [generationsDue, fdiv, epsRaw_eq, one_eq]
  omega

/-- Steps 1 and 2, with a generation due and a legal width. -/
theorem advance_of_due {mag : Nat} {s : State} {o : Order} (ho : o.val = s.order.toNat)
    (hdue : s.pa.toInt - mag < Config.epsRaw) :
    ∃ t, advance mag s = .ok t ∧
      t.cells = (fun x => evolve x s.rule o)^[generationsDue (s.pa.toInt - mag)] s.cells := by
  have hlegal := legalOrder_of_val ho
  cases hadvance : advance mag s with
  | error f => exact absurd (hlegal.symm.trans (advance_error hadvance).1) (by simp)
  | ok t =>
    refine ⟨t, rfl, ?_⟩
    rcases advance_ok hadvance with ⟨hnotdue, -⟩ | ⟨-, o', g, ho', hg, rfl⟩
    · exact absurd hdue hnotdue
    · obtain rfl : o = o' := Option.some.inj (hlegal.symm.trans ho')
      have hcells := catchUp_cells_of_due s.rule o s.cv _
        (g := { cells := s.cells, tv := s.tv, delta := s.delta, pa := s.pa.toInt - mag })
        (one_mul_generationsDue_lt hdue)
      rwa [← hg] at hcells

/-! ### One tick -/

/-- A `TICK` that is not frozen, on a ready ramp kind, whose steps have a meaning (R122). -/
theorem execTick_of_steps {speed trig : Sfx} {s s1 s2 : State} (hs : s.RampReady)
    (hspeed : 512 ≤ speed.toInt.natAbs) (htrigger : applyTrigger trig s = .ok s1)
    (hadvance : advance (absSfx speed) s1 = .ok s2) :
    execTick speed trig s = .next (finishTick (absSfx speed) s2) := by
  have hfrozen : frozen speed = false := decide_eq_false (not_lt.mpr hspeed)
  simp [execTick, hs.1, hs.2, hfrozen, htrigger, hadvance]

/-- The cells after a tick that enters step 1 with `PA` = 0: the ones the trigger fragment leaves, evolved. -/
theorem execTick_cells_from_zero {speed trig : Sfx} {s s1 : State} {o : Order} (hs : s.RampReady)
    (hspeed : 512 ≤ speed.toInt.natAbs) (htrigger : applyTrigger trig s = .ok s1) (hpa : s1.pa = 0)
    (ho : o.val = s1.order.toNat) :
    ∃ t, execTick speed trig s = .next t ∧
      t.cells = (fun x => evolve x s1.rule o)^[(512 + speed.toInt.natAbs + 4294967296 - 1) / 4294967296]
        s1.cells := by
  have hpa0 : s1.pa.toInt = 0 := by rw [hpa, sfx_zero_toInt]
  have hdue : s1.pa.toInt - (absSfx speed : Int) < Config.epsRaw := by
    rw [hpa0, epsRaw_eq]
    omega
  obtain ⟨s2, hadvance, hcells⟩ := advance_of_due ho hdue
  rw [hpa0, generationsDue_neg] at hcells
  exact ⟨_, execTick_of_steps hs hspeed htrigger hadvance, hcells⟩

theorem execTick_of_blockReady {s : State} (hs : s.BlockReady) (speed trig : Sfx) :
    execTick speed trig s = .next (raiseErr .kindMismatch s) := by
  simp [execTick, hs.1, hs.2]

/-- A `KIND_MISMATCH` leaves the engine running (R172, R177). -/
theorem raiseErr_of_not_endsInstance {c : Cause} (h : endsInstance c = false) (s : State) :
    raiseErr c s = { s with err := if s.err = .noError then c else s.err } := by
  simp [raiseErr, h]

/-! ### The obligations -/

/-- Settles O34: triggers on one side of the threshold pass the same test, and the two sides leave the present cells
and the reseeded ones to the catch-up loop. -/
theorem triggerThreshold : Obligations.TriggerThreshold := by
  refine ⟨fun speed trig trig' s hsame => ?_, fun speed trig s o hs hkind hspeed hpa ho hseed => ?_⟩
  · have hactive : triggerActive trig = triggerActive trig' := by
      rw [Bool.eq_iff_iff, triggerActive_iff, triggerActive_iff, hsame]
    exact execTick_congr_of_applyTrigger (by rw [applyTrigger, applyTrigger, hactive]) speed
  · by_cases htrig : 512 ≤ trig.toInt.natAbs
    · have hreseed := (applyTrigger_of_active hkind ((triggerActive_iff trig).mpr htrig)).trans
        (reseed_of_admissible ho hseed)
      rw [if_pos htrig]
      exact execTick_cells_from_zero hs hspeed hreseed rfl ho
    · have hkeep := applyTrigger_of_inactive (s := s) fun hactive => htrig ((triggerActive_iff trig).mp hactive.2)
      rw [if_neg htrig]
      exact execTick_cells_from_zero hs hspeed hkeep hpa ho

/-- Settles O30: each outcome of `INIT.R` gives the one of `INIT.RR`, whose only difference is `KIND` after a
success (R139, R140). -/
theorem initRRStartsAResettableRamp : Obligations.InitRRStartsAResettableRamp := by
  refine ⟨fun c => Encoding.decode_of_cw_initRR, fun rule order seed s => ?_⟩
  obtain ⟨horder, hseed, hstart⟩ := initRStartsARamp.2 rule order seed s
  exact ⟨fun h => execInitRR_of_execInitR (horder h), fun h => execInitRR_of_execInitR (hseed h),
    fun o ho h => execInitRR_of_execInitR (hstart o ho h)⟩

/-- Settles O32: the frozen test comes before the trigger fragment. -/
theorem frozenTickHoldsAndIgnoresTheTrigger : Obligations.FrozenTickHoldsAndIgnoresTheTrigger :=
  fun _ trig _ hs hspeed => execTick_of_frozen hs hspeed trig

/-- Settles O35: outside kind `RRAMP` the trigger fragment does nothing whatever `trig` holds, and in kind `BLOCK` it
is not reached. -/
theorem triggerIgnoredInOtherKinds : Obligations.TriggerIgnoredInOtherKinds := by
  refine ⟨fun speed trig trig' s hkind => ?_, fun speed trig s hs => ?_⟩
  · have hskip (x : Sfx) : applyTrigger x s = .ok s := applyTrigger_of_inactive fun hactive => hkind hactive.1
    exact execTick_congr_of_applyTrigger ((hskip trig).trans (hskip trig').symm) speed
  · rw [← raiseErr_of_not_endsInstance rfl s]
    exact execTick_of_blockReady hs speed trig

end Sys2Proof.Resettable
end

section
/-!
PROOFS. The block oscillator (spec/45_block.md). `INIT.B` is `INIT.R` but for `KIND` and the ramp registers, and a
`BSTEP` evolves before it emits, so a run of them is heard from the first generation on.
-/

namespace Sys2Proof.Block

open Sys2Proof.Machine Sys2Proof.InitRules Sys2Proof.Resettable

/-! ### INIT.B (R150) -/

/-- What an `INIT.R` left, `KIND` being `BLOCK` and the ramp registers those of the state `s` before it. -/
def asBlock (s t : State) : State :=
  { t with kind := Config.kindBlock, pa := s.pa, cv := s.cv, tv := s.tv, delta := s.delta }

/-- The same operand check, then the same writes but for `KIND` and the ramp registers (R150). -/
theorem execInitB_of_execInitR {rule order : Word} {sd : SeedValue} {s t : State}
    (h : execInitR rule order sd s = .next t) :
    execInitB rule order sd s = .next (if t.ready = true then asBlock s t else t) := by
  rcases execInitR_next h with ⟨c, hcheck, rfl⟩ | ⟨o, hcheck, rfl⟩
  · have hstopped : ¬ (raiseErr c s).ready = true := by simp [endsInstance_of_checkInit_error hcheck]
    rw [execInitB, hcheck, if_neg hstopped]
  · rw [execInitB, hcheck]
    rfl

/-- Settles O31: each outcome of `INIT.R` gives the one of `INIT.B`. -/
theorem initBStartsABlock : Obligations.InitBStartsABlock := by
  refine ⟨fun c => Encoding.decode_of_cw_initB, fun rule order seed s => ?_⟩
  obtain ⟨horder, hseed, hstart⟩ := initRStartsARamp.2 rule order seed s
  exact ⟨fun h => execInitB_of_execInitR (horder h), fun h => execInitB_of_execInitR (hseed h),
    fun o ho h => execInitB_of_execInitR (hstart o ho h)⟩

/-! ### BSTEP (R151) -/

/-- The state one generation later, the amplitude of its cells on the output port. -/
def evolved (o : Order) (s : State) : State :=
  { s with cells := evolve s.cells s.rule o, out := some (toAmp (evolve s.cells s.rule o)) }

@[simp] theorem evolved_cells (o : Order) (s : State) : (evolved o s).cells = evolve s.cells s.rule o := rfl
@[simp] theorem evolved_rule (o : Order) (s : State) : (evolved o s).rule = s.rule := rfl
@[simp] theorem evolved_out (o : Order) (s : State) :
    (evolved o s).out = some (toAmp (evolve s.cells s.rule o)) := rfl

theorem execBstep_of_not_ready {s : State} (hready : s.ready = false) :
    execBstep s = .next (raiseErr .notReady s) :=
  if_pos hready

theorem execBstep_of_kind_ne {s : State} (hready : s.ready = true) (hkind : s.kind ≠ Config.kindBlock) :
    execBstep s = .next (raiseErr .kindMismatch s) := by
  simp [execBstep, hready, hkind]

theorem execBstep_of_blockReady {s : State} {o : Order} (hs : s.BlockReady) (ho : o.val = s.order.toNat) :
    execBstep s = .next (evolved o s) := by
  obtain ⟨hready, hkind⟩ := hs
  simp [execBstep, hready, hkind, legalOrder_of_val ho, evolved, emit]

/-- Settles O48: the two refusals leave the engine running, and every amplitude is in range (R111). -/
theorem bstepAdvancesOneGeneration : Obligations.BstepAdvancesOneGeneration := by
  refine ⟨fun c => Encoding.decode_of_cw_bstep, fun s => ⟨fun hready => ?_, ?_, fun o hs ho => ?_⟩⟩
  · rw [← raiseErr_of_not_endsInstance rfl s]
    exact execBstep_of_not_ready hready
  · rintro ⟨hready, hkind⟩
    rw [← raiseErr_of_not_endsInstance rfl s]
    exact execBstep_of_kind_ne hready hkind
  · obtain ⟨-, -, hrange⟩ := Mapper.amplitudeRange
    exact ⟨execBstep_of_blockReady hs ho, hrange _⟩

/-! ### A run of BSTEPs (R152) -/

/-- The step that takes a legal command executes it (R84). -/
theorem step_of_command {s : State} {c : Command} {i : Instr} {rest : List Input}
    (hinputs : s.inputs = .command c :: rest) (hdecode : decode c = .ok i) :
    step s = exec i (beginStep s) := by
  have hnext : nextInput s = .command c := by rw [nextInput, hinputs]
  rw [step, hnext, takeInput, acceptCommand, hdecode]

/-- A run of `k` `BSTEP`s emits the amplitudes of the `k` generations after the present cells, not that of the
present cells. -/
theorem emissions_replicate_bstep {s : State} {o : Order} {rest : List Input} (k : Nat) (hs : s.BlockReady)
    (ho : o.val = s.order.toNat) (hinputs : s.inputs = inputsOf (List.replicate k .bstep) ++ rest) :
    emissions k s =
      (List.range k).map (fun j => toAmp ((fun x => evolve x s.rule o)^[j + 1] s.cells)) := by
  induction k generalizing s with
  | zero => rfl
  | succ k ih =>
    have hstep : step s = .next (evolved o (beginStep s)) :=
      (step_of_command hinputs (Encoding.decode_of_cw_bstep rfl)).trans
        (execBstep_of_blockReady (s := beginStep s) hs ho)
    have htail : (beginStep s).inputs = inputsOf (List.replicate k .bstep) ++ rest := by
      rw [beginStep_inputs, hinputs]
      rfl
    have hrest := ih (s := evolved o (beginStep s)) hs ho htail
    rw [emissions_succ_of_next k hstep, hrest, List.range_succ_eq_map]
    simp [Function.comp_def]

/-- The width latched by an `INIT` reads back as the legal order (R23). -/
theorem latched_order_toNat (o : Order) : (BitVec.ofNat 3 o.val).toNat = o.val := by
  obtain ⟨-, h6⟩ := o.property
  rw [BitVec.toNat_ofNat]
  omega

/-- Settles O49: `INIT.B` emits nothing, and leaves the seeded state for the run of `BSTEP`s to start from. -/
theorem seededStateIsNeverHeard : Obligations.SeededStateIsNeverHeard := by
  intro rule order seed s o k ho hseed
  obtain ⟨-, hinit⟩ := initBStartsABlock
  obtain ⟨-, -, hstart⟩ := hinit rule order seed
    (beginStep { s with inputs := inputsOf (.initB rule order seed :: List.replicate k .bstep) ++ s.inputs })
  have hdecode : decode (encode (.initB rule order seed)) = .ok (.initB rule order seed) :=
    Encoding.decode_of_cw_initB rfl
  have hstep := (step_of_command rfl hdecode).trans (hstart o ho hseed)
  rw [emissions_succ_of_next k hstep]
  exact emissions_replicate_bstep k ⟨rfl, rfl⟩ (latched_order_toNat o).symm rfl

end Sys2Proof.Block
end

section
/-!
PROOFS. `NOP` (spec/46_housekeeping.md R160): its word samples no operand port, and executing it answers the state
it was given, `ERR` included.
-/

namespace Sys2Proof.Housekeeping

open Sys2Proof.Machine

/-- `NOP` has no guard to fail, so it answers a next state whatever `READY`, `KIND` and `ERR` hold (R160). -/
@[simp] theorem exec_nop (s : State) : exec .nop s = .next s := rfl

/-- Settles O28: the decoder sends the word `0x00` to `NOP` from the word alone, and `NOP` is the identity. -/
theorem nopHasNoEffect : Obligations.NopHasNoEffect :=
  ⟨fun _ => Encoding.decode_of_cw_nop, exec_nop⟩

end Sys2Proof.Housekeeping
end

section
/-!
PROOFS. The error causes (spec/60_exceptions.md R171 to R180). Each group of commands is refused in one way: an
illegal word by decoding, the three `INIT`s by their common operand check, `TICK` and `BSTEP` by `READY` and then
`KIND`. One equation for each refusal gives the cause, the frame and the priority; with the frame of the successful
paths they give what a step does to a recorded cause.
-/

namespace Sys2Proof.Exceptions

open Sys2Proof.Machine Sys2Proof.InitRules Sys2Proof.Resettable Sys2Proof.Block

/-! ### The codes of `ERR` (R171) -/

theorem causeCode_eq_zero_iff (c : Cause) : causeCode c = 0 ↔ c = .noError := by
  cases c <;> decide

theorem causeCode_lt_six (c : Cause) : (causeCode c).toNat < 6 := by
  cases c <;> decide

/-- Settles O16: `NONE` is the one cause with code 0, and every code is below 6. -/
theorem errorOutputFollowsErr : Obligations.ErrorOutputFollowsErr := by
  intro s
  have hlt : (statusPort s .ERR).toNat < 6 := causeCode_lt_six s.err
  refine ⟨bne_iff_ne.trans (causeCode_eq_zero_iff s.err).not, fun h6 => ?_, fun h7 => ?_⟩
  · rw [h6] at hlt
    exact absurd hlt (by decide)
  · rw [h7] at hlt
    exact absurd hlt (by decide)

/-! ### Illegal command words (R173) -/

/-- A word that the decoder rejects raises `ILLEGAL_CMD` before any state is looked at. -/
theorem step_of_decode_error {s : State} {c : Command} {e : DecodeError} (hnext : nextInput s = .command c)
    (hdecode : decode c = .error e) : step s = .next (raiseErr .illegalCmd (beginStep s)) := by
  rw [step, hnext, takeInput, acceptCommand, hdecode]

theorem wellFormed_of_mem_table :
    ∀ w ∈ ([0x00, 0x01, 0x09, 0x11, 0x02, 0x03] : List (BitVec 8)), (commandOfWord w).wellFormed = true := by
  decide

/-- What the decoder accepts passes the checks of R77. -/
theorem wellFormed_of_decode_ok {c : Command} {i : Instr} (h : decode c = .ok i) : c.wellFormed = true := by
  have hcw : c.cw = encodeWord i := Encoding.cw_eq_encodeWord_of_decode_ok h
  exact Laws.EncodesLegally.wellFormed_of_cw hcw
    (wellFormed_of_mem_table _ (Encoding.encodeWord_mem_table i))

theorem decode_error_of_not_wellFormed {c : Command} (h : c.wellFormed = false) :
    ∃ e, decode c = .error e := by
  cases hdecode : decode c with
  | error e => exact ⟨e, rfl⟩
  | ok i => exact absurd (wellFormed_of_decode_ok hdecode) (by simp [h])

/-- Settles O6: every word outside the table is rejected by the decoder, and `ILLEGAL_CMD` leaves `READY`. -/
theorem illegalWordOnlyRecordsItsCause : Obligations.IllegalWordOnlyRecordsItsCause := by
  intro s c rest hinputs hcw
  obtain ⟨e, hdecode⟩ := Encoding.decode_error_of_cw_not_mem_table (c := c) (by simpa using hcw)
  have hnext : nextInput s = .command c := by rw [nextInput, hinputs]
  rw [step_of_decode_error hnext hdecode, raiseErr_of_not_endsInstance rfl, beginStep, hinputs]
  rfl

/-! ### The operand checks of the three `INIT`s (R174, R175) -/

/-- The three `INIT`s with the same operands. -/
def initsOf (rule order : Word) (seed : SeedValue) : List Instr :=
  [.initR rule order seed, .initRR rule order seed, .initB rule order seed]

theorem mem_initsOf {rule order : Word} {seed : SeedValue} {i : Instr} :
    i ∈ initsOf rule order seed ↔
      i = .initR rule order seed ∨ i = .initRR rule order seed ∨ i = .initB rule order seed := by
  simp [initsOf]

/-- Each `INIT` whose operands fail the check clears `READY` and records the cause (R172). -/
theorem exec_init_of_check_error {rule order : Word} {seed : SeedValue} {i : Instr} {c : Cause}
    (hi : i ∈ initsOf rule order seed) (hcheck : checkInit order seed = .error c) (s : State) :
    exec i s = .next { s with ready := false, err := if s.err = .noError then c else s.err } := by
  have hinitR := execInitR_of_check_error hcheck rule s
  rcases mem_initsOf.mp hi with rfl | rfl | rfl
  · exact hinitR
  · exact execInitRR_of_check_error hcheck rule s
  · exact execInitB_of_execInitR hinitR

/-- Each `INIT` whose operands pass the check clears `ERR` and seeds the cells (R120, R140, R150). -/
theorem exec_init_of_check_ok {rule order : Word} {seed : SeedValue} {i : Instr} {o : Order}
    (hi : i ∈ initsOf rule order seed) (hcheck : checkInit order seed = .ok o) (s : State) :
    ∃ t, exec i s = .next t ∧ t.ready = true ∧ t.err = .noError ∧ t.cells = seedState seed rule o := by
  have hinitR := execInitR_of_check_ok hcheck rule s
  rcases mem_initsOf.mp hi with rfl | rfl | rfl
  · exact ⟨_, hinitR, rfl, rfl, rfl⟩
  · exact ⟨_, execInitRR_of_check_ok hcheck rule s, rfl, rfl, rfl⟩
  · exact ⟨_, execInitB_of_execInitR hinitR, rfl, rfl, rfl⟩

/-- Settles O10: the first clause of each `INIT` (R120, R140, R150), on all 64 bits of the operand. -/
theorem orderOutOfRangeFailsInit : Obligations.OrderOutOfRangeFailsInit := by
  intro rule order seed s horder
  obtain ⟨hinitR, -, -⟩ := initRStartsARamp.2 rule order seed s
  obtain ⟨hinitRR, -, -⟩ := initRRStartsAResettableRamp.2 rule order seed s
  obtain ⟨hinitB, -, -⟩ := initBStartsABlock.2 rule order seed s
  exact ⟨hinitR horder, hinitRR horder, hinitB horder⟩

theorem evolveN_eq_iterate (rule : Word) (o : Order) (n : Nat) (x : Word) :
    evolveN rule o n x = (fun y => evolve y rule o)^[n] x := by
  induction n generalizing x with
  | zero => rfl
  | succ n ih => rw [evolveN_succ, ih, Function.iterate_succ_apply]

/-- Canonical seeding (R101), whatever the sign. -/
theorem seedState_of_near_zero {seed : SeedValue} (hnear : seed.int = 0 ∧ seed.frac.toNat < 512) (rule : Word)
    (o : Order) : seedState seed rule o = (fun x => evolve x rule o)^[32] 0x8000 := by
  have hzero : nearZero seed = true := by simp [nearZero, hnear.1, hnear.2]
  rw [seedState, if_pos hzero, evolveN_eq_iterate]
  rfl

/-- Settles O11: the second clause of each `INIT`; and a near-zero seed passes their common check
whatever its sign. -/
theorem negativeSeedFailsInit : Obligations.NegativeSeedFailsInit := by
  intro rule order seed s o ho hneg
  obtain ⟨h1, h6⟩ := o.property
  rw [ho] at h1 h6
  refine ⟨fun hfar => ?_, fun hnear i hi => ?_⟩
  · obtain ⟨-, hinitR, -⟩ := initRStartsARamp.2 rule order seed s
    obtain ⟨-, hinitRR, -⟩ := initRRStartsAResettableRamp.2 rule order seed s
    obtain ⟨-, hinitB, -⟩ := initBStartsABlock.2 rule order seed s
    exact ⟨hinitR ⟨h1, h6, hneg, hfar⟩, hinitRR ⟨h1, h6, hneg, hfar⟩, hinitB ⟨h1, h6, hneg, hfar⟩⟩
  · have hcheck := checkInit_of_admissible ho ((admissible_iff seed).mpr (.inr hnear))
    rw [← seedState_of_near_zero hnear]
    exact exec_init_of_check_ok hi hcheck s

/-! ### The guards of `TICK` and `BSTEP` (R176, R177) -/

theorem execTick_of_not_ready {s : State} (hready : s.ready = false) (speed trig : Sfx) :
    execTick speed trig s = .next (raiseErr .notReady s) :=
  if_pos hready

/-- `READY` is looked at first (R178). -/
theorem exec_processing_of_not_ready {speed trig : Sfx} {i : Instr} (hi : i ∈ [Instr.tick speed trig, .bstep])
    {s : State} (hready : s.ready = false) :
    exec i s = .next { s with err := if s.err = .noError then .notReady else s.err } := by
  rw [← raiseErr_of_not_endsInstance rfl s]
  rcases List.mem_pair.mp hi with rfl | rfl
  · exact execTick_of_not_ready hready speed trig
  · exact execBstep_of_not_ready hready

/-- On a ready engine the command that is not the entry point of its kind is refused for that. -/
theorem exec_processing_of_wrong_kind {speed trig : Sfx} {i : Instr} (hi : i ∈ [Instr.tick speed trig, .bstep])
    {s : State} (hready : s.ready = true) (hpermits : s.permits i = false) :
    exec i s = .next { s with err := if s.err = .noError then .kindMismatch else s.err } := by
  rw [← raiseErr_of_not_endsInstance rfl s]
  rcases List.mem_pair.mp hi with rfl | rfl
  · have hkind : s.kind = Config.kindBlock := by simpa [State.permits, hready] using hpermits
    exact execTick_of_blockReady ⟨hready, hkind⟩ speed trig
  · have hkind : s.kind ≠ Config.kindBlock := by simpa [State.permits, hready] using hpermits
    exact execBstep_of_kind_ne hready hkind

/-- Settles O12: both commands look at `READY` before anything else. -/
theorem notReadyRefusesProcessing : Obligations.NotReadyRefusesProcessing := by
  intro speed trig s hready
  have hrefused (i : Instr) (hi : i ∈ [.tick speed trig, .bstep]) := exec_processing_of_not_ready hi hready
  exact ⟨hrefused _ (by simp), hrefused _ (by simp)⟩

/-- Settles O13: neither command is the entry point of the kinds named. -/
theorem wrongKindRefusesProcessing : Obligations.WrongKindRefusesProcessing := by
  intro speed trig s hready
  have hrefused (i : Instr) (hi : i ∈ [.tick speed trig, .bstep]) := exec_processing_of_wrong_kind hi hready
  refine ⟨fun hblock => hrefused _ (by simp) ?_, fun hramp => hrefused _ (by simp) ?_⟩
  · simp [State.permits, hblock, Config.kindBlock]
  · rcases hramp with hkind | hkind <;> simp [State.permits, hkind, Config.kindBlock]

/-! ### Priority (R178) -/

theorem nextInput_of_head? {s : State} {x : Input} (h : s.inputs.head? = some x) : nextInput s = x := by
  obtain ⟨rest, hinputs⟩ := List.head?_eq_some_iff.mp h
  rw [nextInput, hinputs]

/-- Settles O14: with nothing recorded, the cause of each refusal is the one recorded. -/
theorem errorPriority : Obligations.ErrorPriority := by
  intro s herr
  refine ⟨fun c hhead hill => ?_, fun rule order seed i hi => ⟨fun horder => ?_, ?_⟩,
    fun speed trig i hi => ⟨fun hready => ?_, ?_⟩⟩
  · obtain ⟨e, hdecode⟩ := decode_error_of_not_wellFormed hill
    exact ⟨_, step_of_decode_error (nextInput_of_head? hhead) hdecode, if_pos herr⟩
  · exact ⟨_, exec_init_of_check_error hi (checkInit_of_order_out_of_range seed horder) s, if_pos herr⟩
  · rintro ⟨h1, h6, hseed⟩
    have hcheck := checkInit_of_not_admissible h1 h6 (Bool.eq_false_iff.mp hseed)
    exact ⟨_, exec_init_of_check_error hi hcheck s, if_pos herr⟩
  · exact ⟨_, exec_processing_of_not_ready hi hready, if_pos herr⟩
  · rintro ⟨hready, hpermits⟩
    exact ⟨_, exec_processing_of_wrong_kind hi hready hpermits, if_pos herr⟩

/-! ### What a step does to a recorded cause (R172, R179) -/

theorem raiseErr_err_of_recorded {s : State} (herr : s.err ≠ .noError) (c : Cause) :
    (raiseErr c s).err = s.err :=
  if_neg herr

theorem applyTrigger_err {trig : Sfx} {s t : State} (h : applyTrigger trig s = .ok t) : t.err = s.err := by
  rcases applyTrigger_ok h with ⟨-, rfl⟩ | ⟨-, -, hreseed⟩
  · rfl
  · obtain ⟨o, -, -, rfl⟩ := reseed_ok hreseed
    rfl

theorem advance_err {mag : Nat} {s t : State} (h : advance mag s = .ok t) : t.err = s.err := by
  rcases advance_ok h with ⟨-, rfl⟩ | ⟨-, o, g, -, -, rfl⟩ <;> rfl

/-- No outcome of a `TICK` clears or replaces a recorded cause. -/
theorem execTick_err_of_recorded {speed trig : Sfx} {s t : State} (herr : s.err ≠ .noError)
    (h : execTick speed trig s = .next t) : t.err = s.err := by
  rcases execTick_next h with ⟨-, rfl⟩ | ⟨-, -, rfl⟩ | ⟨-, -, -, rfl⟩ | ⟨-, -, -, s1, s2, h1, h2, rfl⟩
  · exact raiseErr_err_of_recorded herr _
  · exact raiseErr_err_of_recorded herr _
  · rfl
  · calc (finishTick (absSfx speed) s2).err = s2.err := finishTick_err _ _
      _ = s1.err := advance_err h2
      _ = s.err := applyTrigger_err h1

/-- No outcome of a `BSTEP` clears or replaces a recorded cause. -/
theorem execBstep_err_of_recorded {s t : State} (herr : s.err ≠ .noError) (h : execBstep s = .next t) :
    t.err = s.err := by
  rcases execBstep_next h with ⟨-, rfl⟩ | ⟨-, -, rfl⟩ | ⟨-, -, o, -, rfl⟩
  · exact raiseErr_err_of_recorded herr _
  · exact raiseErr_err_of_recorded herr _
  · rfl

/-- The operands that pass the check of R178. -/
theorem initOk_of_checkInit_ok {order : Word} {seed : SeedValue} {o : Order}
    (h : checkInit order seed = .ok o) : initOk order seed = true := by
  obtain ⟨horder, hseed⟩ := checkInit_ok h
  obtain ⟨h1, h6, -⟩ := legalOrder_eq_some horder
  simp [initOk, h1, h6, hseed]

theorem initOk_of_checkInit_error {order : Word} {seed : SeedValue} {c : Cause}
    (h : checkInit order seed = .error c) : initOk order seed = false := by
  rcases checkInit_error h with ⟨horder, -⟩ | ⟨-, hseed, -⟩
  · rcases legalOrder_eq_none horder with h1 | h6
    · simp [initOk, not_le.mpr h1]
    · simp [initOk, not_le.mpr h6]
  · simp [initOk, hseed]

/-- An `INIT` clears a recorded cause if it succeeds and keeps it if it fails. -/
theorem exec_init_err_of_recorded {rule order : Word} {seed : SeedValue} {i : Instr} {s t : State}
    (hi : i ∈ initsOf rule order seed) (herr : s.err ≠ .noError) (h : exec i s = .next t) :
    t.err = if initOk order seed = true then .noError else s.err := by
  cases hcheck : checkInit order seed with
  | error c =>
    cases h.symm.trans (exec_init_of_check_error hi hcheck s)
    simp [initOk_of_checkInit_error hcheck, herr]
  | ok o =>
    obtain ⟨t', ht', -, hclear, -⟩ := exec_init_of_check_ok hi hcheck s
    cases h.symm.trans ht'
    rw [hclear, if_pos (initOk_of_checkInit_ok hcheck)]

/-- Of the commands only a successful `INIT` touches a recorded cause (R179). -/
theorem exec_err_of_recorded {i : Instr} {s t : State} (herr : s.err ≠ .noError) (h : exec i s = .next t) :
    t.err = if configures i = true then .noError else s.err := by
  cases i with
  | nop => cases h; rfl
  | initR rule order seed => exact exec_init_err_of_recorded (mem_initsOf.mpr (.inl rfl)) herr h
  | initRR rule order seed => exact exec_init_err_of_recorded (mem_initsOf.mpr (.inr (.inl rfl))) herr h
  | initB rule order seed => exact exec_init_err_of_recorded (mem_initsOf.mpr (.inr (.inr rfl))) herr h
  | tick speed trig => exact execTick_err_of_recorded herr h
  | bstep => exact execBstep_err_of_recorded herr h

/-- The inputs that clear `ERR`: a reset, and a command that is a successful `INIT` (R179). -/
def clearsErr : Input → Bool
  | .idle => false
  | .reset => true
  | .command c =>
    match decode c with
    | .error _ => false
    | .ok i => configures i

theorem clearsErr_command_of_ok {c : Command} {i : Instr} (h : decode c = .ok i) :
    clearsErr (.command c) = configures i := by
  rw [clearsErr, h]

theorem clearsErr_command_of_error {c : Command} {e : DecodeError} (h : decode c = .error e) :
    clearsErr (.command c) = false := by
  rw [clearsErr, h]

theorem clearsErr_nextInput_iff (s : State) :
    clearsErr (nextInput s) = true ↔
      nextInput s = .reset ∨ ∃ i, Accepts s i ∧ configures i = true := by
  constructor
  · intro h
    cases hnext : nextInput s with
    | idle => simp [hnext, clearsErr] at h
    | reset => exact .inl rfl
    | command c =>
      rw [hnext] at h
      cases hdecode : decode c with
      | error e => simp [clearsErr_command_of_error hdecode] at h
      | ok i => exact .inr ⟨i, ⟨c, hnext, hdecode⟩, clearsErr_command_of_ok hdecode ▸ h⟩
  · rintro (hreset | ⟨i, ⟨c, hnext, hdecode⟩, hconf⟩)
    · rw [hreset]
      rfl
    · rw [hnext, clearsErr_command_of_ok hdecode, hconf]

/-- A step clears a recorded cause or keeps it, as its input says. -/
theorem step_err_of_recorded {s t : State} (herr : s.err ≠ .noError) (h : step s = .next t) :
    t.err = if clearsErr (nextInput s) = true then .noError else s.err := by
  rcases step_next h with ⟨hnext, rfl⟩ | ⟨hnext, rfl⟩ | ⟨c, hnext, haccept⟩
  · rw [hnext]
    rfl
  · rw [hnext]
    rfl
  · rw [hnext]
    have hbegin : (beginStep s).err ≠ .noError := herr
    rcases acceptCommand_next haccept with ⟨⟨e, hdecode⟩, rfl⟩ | ⟨i, hdecode, hexec⟩
    · rw [clearsErr_command_of_error hdecode]
      exact raiseErr_err_of_recorded hbegin _
    · rw [clearsErr_command_of_ok hdecode]
      exact exec_err_of_recorded (s := beginStep s) hbegin hexec

/-- Settles O15: the two outcomes of `step_err_of_recorded`, the first for exactly the inputs named. -/
theorem onlyResetAndInitClearErr : Obligations.OnlyResetAndInitClearErr := by
  intro s t hstep herr
  rw [step_err_of_recorded herr hstep, ← clearsErr_nextInput_iff]
  by_cases hclears : clearsErr (nextInput s) = true
  · simp [hclears]
  · simp [hclears, herr]

end Sys2Proof.Exceptions
end

section
/-!
PROOFS. Decoding and encoding as inverses (spec/30_encoding.md R73, R74, R75, R77, R84). The word of an instruction
is the word that decodes to it (`Sys2Proof.Encoding`), and each side reads and writes the operand ports the
instruction uses and no other.
-/

namespace Sys2Proof.Codec

open Sys2Proof.Machine

/-- What the encoder writes decodes to the instruction, by the equation of its word (R73, R75). -/
theorem decode_encodeOver (d : Command) (i : Instr) : decode (encodeOver d i) = .ok i := by
  cases i with
  | nop => exact Encoding.decode_of_cw_nop rfl
  | initR rule order seed => exact Encoding.decode_of_cw_initR rfl
  | initRR rule order seed => exact Encoding.decode_of_cw_initRR rfl
  | initB rule order seed => exact Encoding.decode_of_cw_initB rfl
  | tick speed trig => exact Encoding.decode_of_cw_tick rfl
  | bstep => exact Encoding.decode_of_cw_bstep rfl

@[simp] theorem decode_encode (i : Instr) : decode (encode i) = .ok i := decode_encodeOver _ i

/-- Presenting `i` again on a port that holds its word writes back the operands the decoder samples (R73). -/
theorem encodeOver_of_decode_ok {c : Command} {i : Instr} (h : decode c = .ok i) : encodeOver c i = c := by
  have hcw : c.cw = encodeWord i := Encoding.cw_eq_encodeWord_of_decode_ok h
  cases i with
  | nop => rw [encodeOver, ← hcw]
  | initR rule order seed =>
    cases h.symm.trans (Encoding.decode_of_cw_initR hcw)
    rw [encodeOver, ← hcw]
  | initRR rule order seed =>
    cases h.symm.trans (Encoding.decode_of_cw_initRR hcw)
    rw [encodeOver, ← hcw]
  | initB rule order seed =>
    cases h.symm.trans (Encoding.decode_of_cw_initB hcw)
    rw [encodeOver, ← hcw]
  | tick speed trig =>
    cases h.symm.trans (Encoding.decode_of_cw_tick hcw)
    rw [encodeOver, ← hcw]
  | bstep => rw [encodeOver, ← hcw]

/-- Settles O1: the equation of each of the six words, read in both directions. -/
theorem decodeAndEncodeAgree : Obligations.DecodeAndEncodeAgree :=
  ⟨fun d i _ => decode_encodeOver d i, fun _ _ => encodeOver_of_decode_ok⟩

/-- The six words are the only ones without any of the four shapes of R77. -/
theorem cw_mem_table_of_wellFormed :
    ∀ w : BitVec 8, (commandOfWord w).wellFormed = true →
      w ∈ ([0x00, 0x01, 0x09, 0x11, 0x02, 0x03] : List (BitVec 8)) := by
  decide

/-- A word of the table is that of an instruction, so it decodes (R75). -/
theorem decode_ok_of_cw_mem_table {c : Command}
    (h : c.cw ∈ ([0x00, 0x01, 0x09, 0x11, 0x02, 0x03] : List (BitVec 8))) : ∃ i, decode c = .ok i := by
  simp only [List.mem_cons, List.not_mem_nil, or_false] at h
  rcases h with h | h | h | h | h | h
  · exact ⟨_, Encoding.decode_of_cw_nop h⟩
  · exact ⟨_, Encoding.decode_of_cw_initR h⟩
  · exact ⟨_, Encoding.decode_of_cw_initRR h⟩
  · exact ⟨_, Encoding.decode_of_cw_initB h⟩
  · exact ⟨_, Encoding.decode_of_cw_tick h⟩
  · exact ⟨_, Encoding.decode_of_cw_bstep h⟩

/-- Settles O3: both sides single out the six words of the table. -/
theorem decodesExactlyTheWellFormedWords : Obligations.DecodesExactlyTheWellFormedWords := by
  refine fun c => ⟨fun ⟨i, hi⟩ => Exceptions.wellFormed_of_decode_ok hi, fun hwf => ?_⟩
  exact decode_ok_of_cw_mem_table (cw_mem_table_of_wellFormed c.cw hwf)

/-- A word of the opcode table is decoded with 0 on every operand port. -/
theorem decodeTableWord_of_decode_ok {w : Nat} {i : Instr} (hw : w < 256)
    (h : decode (commandOfWord (BitVec.ofNat 8 w)) = .ok i) : decodeTableWord 8 w = some i := by
  have hmod : w % 2 ^ 8 = w := Nat.mod_eq_of_lt hw
  rw [decodeTableWord, commandOfTableWord, hmod, if_pos hw, h]
  rfl

/-- Settles O4: the six rows by the equations of their words; 0x19 has the reserved kind. -/
theorem tableWordsDecode : Obligations.TableWordsDecode :=
  ⟨decodeTableWord_of_decode_ok (by decide) (Encoding.decode_of_cw_nop rfl),
    decodeTableWord_of_decode_ok (by decide) (Encoding.decode_of_cw_initR rfl),
    decodeTableWord_of_decode_ok (by decide) (Encoding.decode_of_cw_initRR rfl),
    decodeTableWord_of_decode_ok (by decide) (Encoding.decode_of_cw_initB rfl),
    decodeTableWord_of_decode_ok (by decide) (Encoding.decode_of_cw_tick rfl),
    decodeTableWord_of_decode_ok (by decide) (Encoding.decode_of_cw_bstep rfl),
    rfl⟩

end Sys2Proof.Codec
end

section
/-!
PROOFS. The seed that an `INIT` latches (spec/41_seeder.md R101, R103, R105).
-/

namespace Sys2Proof.Seeding

open Sys2Proof.Machine Sys2Proof.InitRules Sys2Proof.Exceptions

/-- Near zero (R105) is a magnitude below 512 units of the fraction. -/
theorem nearZero_iff (seed : SeedValue) : nearZero seed = true ↔ seed.int = 0 ∧ seed.frac.toNat < 512 := by
  rw [nearZero, Bool.and_eq_true, beq_iff_eq, decide_eq_true_iff, epsRaw_eq]

/-- Direct seeding (R100): the integer part, where the magnitude is `EPS` or more. -/
theorem seedState_of_not_near_zero {seed : SeedValue} (hfar : seed.int ≠ 0 ∨ 512 ≤ seed.frac.toNat) (rule : Word)
    (o : Order) : seedState seed rule o = seed.int := by
  have hfalse : ¬ nearZero seed = true := by
    rw [nearZero_iff]
    exact fun ⟨hint, hfrac⟩ => hfar.elim (absurd hint) (not_le.mpr hfrac)
  rw [seedState, if_neg hfalse]

/-- Settles O23: one equation for each branch of R100. -/
theorem seedTakesItsTwoBranches : Obligations.SeedTakesItsTwoBranches :=
  fun _ rule o => ⟨fun hnear => seedState_of_near_zero hnear rule o,
    fun hfar => seedState_of_not_near_zero hfar rule o⟩

/-- An `INIT` is one of the three, with operands. -/
theorem exists_mem_initsOf {i : Instr} (h : isInit i = true) :
    ∃ rule order seed, i ∈ initsOf rule order seed := by
  cases i with
  | initR rule order seed => exact ⟨rule, order, seed, mem_initsOf.mpr (.inl rfl)⟩
  | initRR rule order seed => exact ⟨rule, order, seed, mem_initsOf.mpr (.inr (.inl rfl))⟩
  | initB rule order seed => exact ⟨rule, order, seed, mem_initsOf.mpr (.inr (.inr rfl))⟩
  | nop => cases h
  | tick speed trig => cases h
  | bstep => cases h

/-- What any of the three `INIT`s can do: its operand check fails and the run ends, or the operands are latched
and the cells seeded, and a ramp is started for the two ramp kinds (R120, R140, R150). -/
theorem exec_init_next {rule order : Word} {seed : SeedValue} {i : Instr} {s t : State}
    (hi : i ∈ initsOf rule order seed) (h : exec i s = .next t) :
    (∃ c, checkInit order seed = .error c ∧
      t = { s with ready := false, err := if s.err = .noError then c else s.err }) ∨
    (∃ o, checkInit order seed = .ok o ∧
      (t = startInstance Config.kindBlock rule order o seed s ∨
        ∃ k ∈ [Config.kindRamp, Config.kindRRamp], t = startRamp (startInstance k rule order o seed s))) := by
  cases hcheck : checkInit order seed with
  | error c =>
    cases h.symm.trans (exec_init_of_check_error hi hcheck s)
    exact .inl ⟨c, rfl, rfl⟩
  | ok o =>
    have hinitR := execInitR_of_check_ok hcheck rule s
    refine .inr ⟨o, rfl, ?_⟩
    rcases mem_initsOf.mp hi with rfl | rfl | rfl
    · cases h.symm.trans hinitR
      exact .inr ⟨Config.kindRamp, by simp, rfl⟩
    · cases h.symm.trans (execInitRR_of_check_ok hcheck rule s)
      exact .inr ⟨Config.kindRRamp, by simp, rfl⟩
    · cases h.symm.trans (Block.execInitB_of_execInitR hinitR)
      exact .inl rfl

/-- A legal order reads back from the register that latches its low three bits (R23). -/
theorem setWidth_order_toNat {order : Word} {o : Order} (ho : o.val = order.toNat) :
    (order.setWidth 3).toNat = o.val := by
  rw [setWidth_eq_ofNat_order ho, Block.latched_order_toNat]

/-- Settles O24: an `INIT` that leaves `READY` = 1 passed its check, and latched what it seeded from. -/
theorem latchedSeedRestoresTheSeededState : Obligations.LatchedSeedRestoresTheSeededState := by
  intro i s t hinit hexec hready
  obtain ⟨rule, order, seed, hi⟩ := exists_mem_initsOf hinit
  rcases exec_init_next hi hexec with ⟨c, -, rfl⟩ | ⟨o, hcheck, hstart⟩
  · cases hready
  · obtain ⟨hlegal, hadmissible⟩ := checkInit_ok hcheck
    obtain ⟨-, -, ho⟩ := legalOrder_eq_some hlegal
    refine ⟨o, ?_⟩
    rcases hstart with rfl | ⟨k, -, rfl⟩
    · exact ⟨(setWidth_order_toNat ho).symm, rfl, hadmissible⟩
    · exact ⟨(setWidth_order_toNat ho).symm, rfl, hadmissible⟩

end Sys2Proof.Seeding
end

section
/-!
PROOFS. The catch-up loop of a `TICK` in closed form (spec/43_ramp.md R125, R130). The closed form of R130 counts the
iterations whose test succeeds, and brings the accumulator to a value whose test fails.
-/

namespace Sys2Proof.CatchUp

open Sys2Proof.Machine Sys2Proof.ConstantSpeed Sys2Proof.Resettable

/-! ### The count (R130) -/

/-- The count is enough. -/
theorem le_pa_after_generationsDue (pa : Int) : 512 ≤ pa + generationsDue pa * 4294967296 := by
  simp only [generationsDue, fdiv, epsRaw_eq, one_eq]
  omega

/-- No smaller count is enough. -/
theorem pa_lt_of_lt_generationsDue {pa : Int} {m : Nat} (h : m < generationsDue pa) :
    pa + m * 4294967296 < 512 := by
  simp only [generationsDue, fdiv, epsRaw_eq, one_eq] at h
  omega

theorem generationsDue_le {pa : Int} (h : -9223372036854775808 ≤ pa) : generationsDue pa ≤ 2147483649 := by
  simp only [generationsDue, fdiv, epsRaw_eq, one_eq]
  omega

/-- The last generation that is due starts below `EPS`, so the accumulator ends below 1.0 + `EPS` (R131). -/
theorem pa_after_generationsDue_lt {pa : Int} (h : pa < 512) :
    pa + generationsDue pa * 4294967296 < 4294967808 := by
  have hlt := one_mul_generationsDue_lt (pa := pa) h
  rw [one_eq, epsRaw_eq] at hlt
  omega

/-! ### The loop (R125) -/

/-- `n` iterations of the body write the registers of the last one. -/
theorem generation_iterate_succ (rule : Word) (o : Order) (cv : Sfx) (g : LoopRegs) (n : Nat) :
    (generation rule o cv)^[n + 1] g =
      { cells := (fun x => evolve x rule o)^[n + 1] g.cells
        tv := toAmp ((fun x => evolve x rule o)^[n + 1] g.cells)
        delta := sfxOfRaw ((toAmp ((fun x => evolve x rule o)^[n + 1] g.cells)).toInt - cv.toInt)
        pa := g.pa + (n + 1 : Nat) * 4294967296 } := by
  induction n with
  | zero => simp [generation]
  | succ n ih =>
    rw [Function.iterate_succ_apply', ih, Function.iterate_succ_apply' (fun x => evolve x rule o) (n + 1)]
    simp only [generation, one_eq, LoopRegs.mk.injEq, true_and]
    push_cast
    ring

/-- While every one of the first `n` tests succeeds, the loop is `n` iterations of its body. -/
theorem catchUp_add_of_due (rule : Word) (o : Order) (cv : Sfx) (k : Nat) {n : Nat} {g : LoopRegs}
    (hdue : ∀ m < n, g.pa + m * 4294967296 < 512) :
    catchUp rule o cv (n + k) g = catchUp rule o cv k ((generation rule o cv)^[n] g) := by
  induction n generalizing g with
  | zero => rw [Nat.zero_add, Function.iterate_zero_apply]
  | succ n ih =>
    have hfirst : g.pa < (Config.epsRaw : Int) := by simpa using hdue 0 n.succ_pos
    have hlater : ∀ m < n, (generation rule o cv g).pa + m * 4294967296 < 512 := by
      intro m hm
      have hnext := hdue (m + 1) (by omega)
      simp only [generation, one_eq]
      omega
    rw [Nat.add_right_comm, catchUp_of_lt rule o cv _ hfirst, ih hlater, Function.iterate_succ_apply]

/-- The registers that the loop leaves from `g` after `n` generations toward which `cv` ramps. -/
def afterGenerations (rule : Word) (o : Order) (cv : Sfx) (n : Nat) (g : LoopRegs) : LoopRegs where
  cells := (fun x => evolve x rule o)^[n] g.cells
  tv := toAmp ((fun x => evolve x rule o)^[n] g.cells)
  delta := sfxOfRaw ((toAmp ((fun x => evolve x rule o)^[n] g.cells)).toInt - cv.toInt)
  pa := g.pa + n * 4294967296

/-- With a generation due the loop runs the closed form's number of them, then stops by its own test whatever fuel
is left. -/
theorem catchUp_eq_afterGenerations (rule : Word) (o : Order) (cv : Sfx) (k : Nat) {g : LoopRegs}
    (hdue : g.pa < 512) :
    catchUp rule o cv (generationsDue g.pa + k) g = afterGenerations rule o cv (generationsDue g.pa) g := by
  have hstop : ¬ (afterGenerations rule o cv (generationsDue g.pa) g).pa < (Config.epsRaw : Int) :=
    not_lt.mpr (le_pa_after_generationsDue g.pa)
  have hruns : (generation rule o cv)^[generationsDue g.pa] g =
      afterGenerations rule o cv (generationsDue g.pa) g := by
    obtain ⟨n, hn⟩ := Nat.exists_eq_succ_of_ne_zero (generationsDue_pos hdue).ne'
    rw [hn, generation_iterate_succ, afterGenerations]
  rw [catchUp_add_of_due rule o cv k fun m hm => pa_lt_of_lt_generationsDue hm, hruns,
    catchUp_of_le rule o cv k hstop]

/-- With the closed form as its fuel the loop ends because its test fails, not because the fuel is spent. -/
theorem le_catchUp_generationsDue_pa (rule : Word) (o : Order) (cv : Sfx) (g : LoopRegs) :
    512 ≤ (catchUp rule o cv (generationsDue g.pa) g).pa := by
  by_cases hdue : g.pa < 512
  · have hloop := catchUp_eq_afterGenerations rule o cv 0 hdue
    rw [Nat.add_zero] at hloop
    rw [hloop]
    exact le_pa_after_generationsDue g.pa
  · rw [catchUp_of_le rule o cv _ (by rwa [epsRaw_eq])]
    exact not_lt.mp hdue

/-- Settles O40: the arithmetic of the closed form, and the loop it stops. -/
theorem generationCountIsLeast : Obligations.GenerationCountIsLeast :=
  fun rule o cv g => ⟨le_pa_after_generationsDue g.pa, fun _ => pa_lt_of_lt_generationsDue, generationsDue_le,
    not_lt.mpr (le_catchUp_generationsDue_pa rule o cv g)⟩

/-- Settles O41: the first `n` tests succeed and the next one fails. -/
theorem catchUpClosedForm : Obligations.CatchUpClosedForm :=
  fun rule o cv _ k hdue => ⟨generationsDue_pos hdue, catchUp_eq_afterGenerations rule o cv k hdue⟩

end Sys2Proof.CatchUp
end

section
/-!
PROOFS. One unfrozen `TICK` (spec/43_ramp.md R124 to R133, spec/44_resettable.md R145, R146): an equation for steps 1
and 2 with and without a generation due, and one for steps 3 to 6; the statements are their compositions.
-/

namespace Sys2Proof.UnfrozenTick

open Sys2Proof.Machine Sys2Proof.RampKinds Sys2Proof.ConstantSpeed Sys2Proof.Resettable Sys2Proof.CatchUp

/-! ### Steps 3 to 6 (R126 to R129) -/

/-- The value that steps 3 to 5 store in `CV`, from the registers before them. -/
def rampedRaw (cv delta tv : Sfx) (mag : Nat) : Int :=
  if cv.toInt < tv.toInt then min (cv.toInt + delta.toInt * mag / 4294967296) tv.toInt
  else max (cv.toInt + delta.toInt * mag / 4294967296) tv.toInt

theorem rampInc_eq (delta : Sfx) (mag : Nat) : rampInc delta mag = delta.toInt * mag / 4294967296 := rfl

theorem ramp_cv_eq (mag : Nat) (s : State) :
    (ramp mag s).cv = BitVec.ofInt 64 (rampedRaw s.cv s.delta s.tv mag) := by
  rw [ramp_cv, rampInc_eq, rampedRaw, sfxOfRaw, rising]
  simp only [decide_eq_true_eq]

/-- Steps 3 to 6 write `CV` and the output port. -/
theorem finishTick_eq (mag : Nat) (s : State) :
    finishTick mag s =
      { s with
        cv := BitVec.ofInt 64 (rampedRaw s.cv s.delta s.tv mag)
        out := some (BitVec.ofInt 64 (rampedRaw s.cv s.delta s.tv mag)) } := by
  rw [← ramp_cv_eq]
  rfl

/-! ### Steps 1 and 2 (R124, R125) -/

theorem advance_of_not_due {mag : Nat} {s : State} (hpa : 512 ≤ s.pa.toInt - mag) :
    advance mag s = .ok { s with pa := BitVec.ofInt 64 (s.pa.toInt - mag) } :=
  if_neg (not_lt.mpr hpa)

/-- The state that reached `cells` by generations: their amplitude is the target and its distance from `CV` the
basis; `pa` is stored in the accumulator. -/
def generated (cells : Word) (pa : Int) (s : State) : State :=
  { s with
    cells := cells
    tv := toAmp cells
    delta := BitVec.ofInt 64 ((toAmp cells).toInt - s.cv.toInt)
    pa := BitVec.ofInt 64 pa }

@[simp] theorem generated_cells (cells : Word) (pa : Int) (s : State) : (generated cells pa s).cells = cells := rfl
@[simp] theorem generated_tv (cells : Word) (pa : Int) (s : State) : (generated cells pa s).tv = toAmp cells := rfl
@[simp] theorem generated_delta (cells : Word) (pa : Int) (s : State) :
    (generated cells pa s).delta = BitVec.ofInt 64 ((toAmp cells).toInt - s.cv.toInt) := rfl
@[simp] theorem generated_pa (cells : Word) (pa : Int) (s : State) :
    (generated cells pa s).pa = BitVec.ofInt 64 pa := rfl
@[simp] theorem generated_cv (cells : Word) (pa : Int) (s : State) : (generated cells pa s).cv = s.cv := rfl

theorem advance_of_generation_due {mag : Nat} {s : State} {o : Order} (ho : o.val = s.order.toNat)
    (hdue : s.pa.toInt - mag < 512) :
    advance mag s =
      .ok (generated ((fun x => evolve x s.rule o)^[generationsDue (s.pa.toInt - mag)] s.cells)
        (s.pa.toInt - mag + generationsDue (s.pa.toInt - mag) * 4294967296) s) := by
  have hloop := catchUp_eq_afterGenerations s.rule o s.cv 0
    (g := { cells := s.cells, tv := s.tv, delta := s.delta, pa := s.pa.toInt - mag }) hdue
  rw [Nat.add_zero] at hloop
  have hlt : s.pa.toInt - (mag : Int) < (Config.epsRaw : Int) := hdue
  rw [advance, if_pos hlt, legalOrder_of_val ho]
  simp only [hloop]
  rfl

/-- With a generation due, what steps 1 and 2 answer is a state that reached some cells by generations. -/
theorem eq_generated_of_advance {mag : Nat} {s t : State} (h : advance mag s = .ok t)
    (hdue : s.pa.toInt - mag < 512) :
    ∃ cells, t = generated cells (s.pa.toInt - mag + generationsDue (s.pa.toInt - mag) * 4294967296) s := by
  rcases advance_ok h with ⟨hnot, -⟩ | ⟨-, o, -, ho, -, -⟩
  · exact absurd hdue hnot
  obtain ⟨-, -, ho⟩ := legalOrder_eq_some ho
  cases h.symm.trans (advance_of_generation_due ho hdue)
  exact ⟨_, rfl⟩

/-- Steps 3 to 6 after a generation. -/
theorem finishTick_generated (mag : Nat) (cells : Word) (pa : Int) (s : State) :
    finishTick mag (generated cells pa s) =
      { s with
        cells := cells
        tv := toAmp cells
        delta := BitVec.ofInt 64 ((toAmp cells).toInt - s.cv.toInt)
        pa := BitVec.ofInt 64 pa
        cv := BitVec.ofInt 64
          (rampedRaw s.cv (BitVec.ofInt 64 ((toAmp cells).toInt - s.cv.toInt)) (toAmp cells) mag)
        out := some (BitVec.ofInt 64
          (rampedRaw s.cv (BitVec.ofInt 64 ((toAmp cells).toInt - s.cv.toInt)) (toAmp cells) mag)) } :=
  finishTick_eq mag _

/-! ### The whole command -/

/-- An untriggered tick goes straight to step 1 (R141, R147). -/
theorem applyTrigger_of_not_triggered {trig : Sfx} {s : State} (h : s.kind = 1 → trig.toInt.natAbs < 512) :
    applyTrigger trig s = .ok s :=
  applyTrigger_of_inactive fun ⟨hkind, hactive⟩ => not_le.mpr (h hkind) ((triggerActive_iff trig).mp hactive)

/-- Settles O36: no generation is due, so step 2 does nothing. -/
theorem tickBetweenGenerations : Obligations.TickBetweenGenerations := by
  intro speed trig s hs hspeed htrig hpa
  refine (execTick_of_steps hs hspeed (applyTrigger_of_not_triggered htrig) (advance_of_not_due hpa)).trans ?_
  rw [finishTick_eq]
  rfl

/-- Settles O37: step 2 is the closed form of the loop. -/
theorem tickRunsDueGenerations : Obligations.TickRunsDueGenerations := by
  intro speed trig s o hs hspeed htrig hdue ho
  have htick := execTick_of_steps hs hspeed (applyTrigger_of_not_triggered htrig)
    (advance_of_generation_due ho hdue)
  rw [finishTick_generated] at htick
  exact ⟨generationsDue_pos hdue, htick⟩

/-- The state that a reseed leaves for step 1 (R141). -/
def reseeded (o : Order) (s : State) : State := { s with cells := seedState s.seed s.rule o, pa := 0 }

/-- A generation overwrites what a reseed writes. -/
theorem generated_reseeded (cells : Word) (pa : Int) (o : Order) (s : State) :
    generated cells pa (reseeded o s) = generated cells pa s := rfl

/-- A triggered tick enters step 1 with the seeded cells and `PA` = 0, where a generation is always due. -/
theorem execTick_of_triggered {speed trig : Sfx} {s : State} {o : Order} (hready : s.ready = true)
    (hkind : s.kind = 1) (hspeed : 512 ≤ speed.toInt.natAbs) (htrig : 512 ≤ trig.toInt.natAbs)
    (ho : o.val = s.order.toNat) (hseed : admissible s.seed = true) :
    execTick speed trig s =
      .next (finishTick (absSfx speed)
        (generated
          ((fun x => evolve x s.rule o)^[generationsDue (0 - absSfx speed)] (seedState s.seed s.rule o))
          (0 - absSfx speed + generationsDue (0 - absSfx speed) * 4294967296) s)) := by
  have hs : s.RampReady := ⟨hready, by rw [hkind]; decide⟩
  have htrigger : applyTrigger trig s = .ok (reseeded o s) :=
    (applyTrigger_of_active hkind ((triggerActive_iff trig).mpr htrig)).trans (reseed_of_admissible ho hseed)
  have hdue : (0 : Int) - absSfx speed < 512 := by omega
  rw [execTick_of_steps hs hspeed htrigger (advance_of_generation_due (s := reseeded o s) ho hdue),
    generated_reseeded]
  rfl

/-- The count from `PA` = 0 (R145). -/
theorem generations_from_zero (mag : Nat) :
    1 ≤ (512 + mag + 4294967296 - 1) / 4294967296 ∧
    (mag ≤ 4294967296 - 512 → (512 + mag + 4294967296 - 1) / 4294967296 = 1) ∧
    (mag = 4294967296 → (512 + mag + 4294967296 - 1) / 4294967296 = 2) := by
  omega

/-- Settles O38: the reseed is followed by the closed form of the loop from `PA` = 0. -/
theorem triggeredTickReseedsAndGenerates : Obligations.TriggeredTickReseedsAndGenerates := by
  intro speed trig s o hready hkind hspeed htrig ho hseed
  have htick := execTick_of_triggered hready hkind hspeed htrig ho hseed
  have hpa (n : Nat) : (0 : Int) - absSfx speed + n * 4294967296 = n * 4294967296 - absSfx speed := by omega
  rw [finishTick_generated, generationsDue_neg, hpa] at htick
  exact ⟨generations_from_zero _, htick⟩

end Sys2Proof.UnfrozenTick
end

section
/-!
PROOFS. Where an unfrozen `TICK` leaves the ramp (spec/43_ramp.md R131 to R134, spec/44_resettable.md R146). Steps 1
and 2 leave a state that is `Primed` for the ramp; from there `CV` stops at its target from below or from above, or
moves on past it by the whole increment.
-/

namespace Sys2Proof.RampRange

open Sys2Proof.Machine Sys2Proof.Mapper Sys2Proof.RampKinds Sys2Proof.ConstantSpeed Sys2Proof.Resettable
  Sys2Proof.CatchUp Sys2Proof.UnfrozenTick

/-! ### The accumulator (R131) -/

/-- What every command that starts from R33 leaves the accumulator within, and all that step 1 asks of it. -/
def PaInRange (s : State) : Prop := 0 ≤ s.pa.toInt ∧ s.pa.toInt < 4294967808

theorem paInRange_of_bounds {s : State} (h : s.pa = 0 ∨ (512 ≤ s.pa.toInt ∧ s.pa.toInt < 4294967808)) :
    PaInRange s := by
  rcases h with hzero | ⟨hlo, hhi⟩
  · rw [PaInRange, hzero, sfx_zero_toInt]
    decide
  · exact ⟨by omega, hhi⟩

theorem paInRange_of_applyTrigger {trig : Sfx} {s t : State} (h : applyTrigger trig s = .ok t)
    (hpa : PaInRange s) : PaInRange t := by
  rcases applyTrigger_ok h with ⟨-, rfl⟩ | ⟨-, -, hreseed⟩
  · exact hpa
  · obtain ⟨o, -, -, rfl⟩ := reseed_ok hreseed
    exact paInRange_of_bounds (.inl rfl)

theorem ofInt_toInt {r : Int} (h1 : -9223372036854775808 ≤ r) (h2 : r < 9223372036854775808) :
    (BitVec.ofInt 64 r).toInt = r :=
  sfxOfRaw_toInt h1 h2

/-- A decrement with no generation due, or the value the closed form of R130 reaches. -/
theorem pa_after_advance {speed : Sfx} {s t : State} (h : advance (absSfx speed) s = .ok t) (hpa : PaInRange s) :
    512 ≤ t.pa.toInt ∧ t.pa.toInt < 4294967808 := by
  obtain ⟨hlo, hhi⟩ := hpa
  by_cases hdue : s.pa.toInt - (absSfx speed : Int) < 512
  · obtain ⟨cells, rfl⟩ := eq_generated_of_advance h hdue
    have hge := le_pa_after_generationsDue (s.pa.toInt - absSfx speed)
    have hlt := pa_after_generationsDue_lt hdue
    rw [generated_pa, ofInt_toInt (by omega) (by omega)]
    exact ⟨hge, hlt⟩
  · cases h.symm.trans (advance_of_not_due (not_lt.mp hdue))
    dsimp only
    rw [ofInt_toInt (by omega) (by omega)]
    omega

/-- Settles O42: neither the trigger nor the ramp takes the accumulator out of the range that steps 1 and 2 leave. -/
theorem accumulatorRangeAfterTick : Obligations.AccumulatorRangeAfterTick := by
  intro speed trig s t hs hspeed hpa hexec
  obtain ⟨s1, s2, htrigger, hadvance, rfl⟩ := execTick_next_of_not_frozen hs hspeed hexec
  obtain ⟨hlo, hhi⟩ := pa_after_advance hadvance (paInRange_of_applyTrigger htrigger (paInRange_of_bounds hpa))
  refine ⟨hlo, hhi, fun hzero => generationsDue_pos ?_⟩
  rw [hzero, sfx_zero_toInt, epsRaw_eq]
  omega

/-! ### What steps 1 and 2 leave for the ramp -/

/-- The registers between step 2 and step 3 of a tick of magnitude `mag`. A rising ramp that is past its target
already has room left for the increment of this tick (R134). -/
structure Primed (mag : Nat) (s : State) : Prop where
  target : s.tv = toAmp s.cells
  cv_range : -4294967296 ≤ s.cv.toInt ∧ s.cv.toInt < 12884901888
  delta_range : -17179869184 < s.delta.toInt ∧ s.delta.toInt ≤ 8589934592
  pa_range : 512 ≤ s.pa.toInt ∧ s.pa.toInt < 4294967808
  falling : s.delta.toInt < 0 → s.tv.toInt ≤ s.cv.toInt
  level : s.delta.toInt = 0 → s.cv = s.tv
  basis : 0 < s.delta.toInt → s.delta.toInt ≤ s.tv.toInt + 4294967296
  room : 0 < s.delta.toInt → s.tv.toInt ≤ s.cv.toInt →
    4294967296 * (s.cv.toInt - s.tv.toInt) ≤ s.delta.toInt * (4294967807 - s.pa.toInt - mag)

/-- The bounds of R33 in numbers. -/
theorem rampBounds_iff (s : State) :
    s.RampBounds ↔
      (-4294967296 ≤ s.tv.toInt ∧ s.tv.toInt ≤ 4294967296) ∧
      (-4294967296 ≤ s.cv.toInt ∧ s.cv.toInt < 12884901888) ∧
      (-17179869184 < s.delta.toInt ∧ s.delta.toInt ≤ 8589934592) ∧
      (s.pa = 0 ∨ (512 ≤ s.pa.toInt ∧ s.pa.toInt < 4294967808)) ∧
      ((s.delta.toInt < 0 → s.tv.toInt ≤ s.cv.toInt) ∧ (s.delta.toInt = 0 → s.cv = s.tv)) :=
  Iff.rfl

/-- The history in numbers. -/
theorem rampHistory_iff (s : State) :
    s.RampHistory ↔
      s.tv = toAmp s.cells ∧
      (0 < s.delta.toInt →
        s.delta.toInt ≤ s.tv.toInt + 4294967296 ∧
        4294967296 * (s.cv.toInt - s.tv.toInt) ≤ s.delta.toInt * (4294967807 - s.pa.toInt)) :=
  Iff.rfl

theorem amplitude_range (s : Word) : -4294967296 ≤ (toAmp s).toInt ∧ (toAmp s).toInt ≤ 4294967296 := by
  obtain ⟨-, -, hrange⟩ := amplitudeRange
  exact hrange s

/-- With no generation due only `PA` moves, by the magnitude. -/
theorem primed_of_not_due {mag : Nat} {s : State} (hbounds : s.RampBounds) (hhistory : s.RampHistory)
    (hpa : 512 ≤ s.pa.toInt - mag) : Primed mag { s with pa := BitVec.ofInt 64 (s.pa.toInt - mag) } := by
  obtain ⟨-, hcv, hdelta, hpa0, hfalling, hlevel⟩ := (rampBounds_iff s).mp hbounds
  obtain ⟨htarget, hrising⟩ := (rampHistory_iff s).mp hhistory
  obtain ⟨hlo, hhi⟩ := paInRange_of_bounds hpa0
  have hacc : (BitVec.ofInt 64 (s.pa.toInt - mag)).toInt = s.pa.toInt - mag := ofInt_toInt (by omega) (by omega)
  refine ⟨htarget, hcv, hdelta, by dsimp only; omega, hfalling, hlevel, fun hpos => (hrising hpos).1, ?_⟩
  intro hpos _
  obtain ⟨-, hroom⟩ := hrising hpos
  dsimp only
  rwa [hacc, show (4294967807 : Int) - (s.pa.toInt - mag) - mag = 4294967807 - s.pa.toInt by ring]

/-- The basis of a generation is the distance of the new target from `CV`, exactly (R125). -/
theorem generated_delta_toInt {s : State} (hcv : -4294967296 ≤ s.cv.toInt ∧ s.cv.toInt < 12884901888)
    (cells : Word) (pa : Int) :
    (generated cells pa s).delta.toInt = (toAmp cells).toInt - s.cv.toInt := by
  have hamp := amplitude_range cells
  exact ofInt_toInt (by omega) (by omega)

/-- After a generation a rising ramp is below its target. -/
theorem primed_generated {s : State} {pa : Int} (hcv : -4294967296 ≤ s.cv.toInt ∧ s.cv.toInt < 12884901888)
    (hpa : 512 ≤ pa ∧ pa < 4294967808) (cells : Word) (mag : Nat) : Primed mag (generated cells pa s) := by
  have hbasis := generated_delta_toInt hcv cells pa
  have hamp := amplitude_range cells
  have hacc : (generated cells pa s).pa.toInt = pa := ofInt_toInt (by omega) (by omega)
  exact {
    target := rfl
    cv_range := hcv
    delta_range := by omega
    pa_range := by omega
    falling := by rw [generated_tv, generated_cv]; omega
    level := fun hzero => BitVec.toInt_inj.mp (by rw [generated_tv, generated_cv]; omega)
    basis := by rw [generated_tv]; omega
    room := by rw [generated_tv, generated_cv]; omega }

theorem primed_of_due {mag mag' : Nat} {s t : State} (h : advance mag s = .ok t)
    (hcv : -4294967296 ≤ s.cv.toInt ∧ s.cv.toInt < 12884901888) (hdue : s.pa.toInt - mag < 512) :
    Primed mag' t := by
  obtain ⟨cells, rfl⟩ := eq_generated_of_advance h hdue
  exact primed_generated hcv ⟨le_pa_after_generationsDue _, pa_after_generationsDue_lt hdue⟩ _ _

/-- Whatever the trigger does, steps 1 and 2 leave a state primed for the ramp. -/
theorem primed_of_tick {speed trig : Sfx} {s s1 s2 : State} (hbounds : s.RampBounds) (hhistory : s.RampHistory)
    (htrigger : applyTrigger trig s = .ok s1) (hadvance : advance (absSfx speed) s1 = .ok s2)
    (hspeed : 512 ≤ absSfx speed) : Primed (absSfx speed) s2 := by
  obtain ⟨-, hcv, -⟩ := (rampBounds_iff s).mp hbounds
  rcases applyTrigger_ok htrigger with ⟨-, rfl⟩ | ⟨-, -, hreseed⟩
  · by_cases hdue : s1.pa.toInt - (absSfx speed : Int) < 512
    · exact primed_of_due hadvance hcv hdue
    · cases hadvance.symm.trans (advance_of_not_due (not_lt.mp hdue))
      exact primed_of_not_due hbounds hhistory (not_lt.mp hdue)
  · obtain ⟨o, -, -, rfl⟩ := reseed_ok hreseed
    exact primed_of_due hadvance hcv (by dsimp only; rw [sfx_zero_toInt]; omega)

/-! ### Where the ramp leaves `CV` (R126 to R128, R132 to R134) -/

/-- A ramp below its target rises, and stops there. -/
theorem ramp_cv_of_below {mag : Nat} {s : State} (h : Primed mag s) (hdir : s.cv.toInt < s.tv.toInt) :
    s.cv.toInt ≤ (ramp mag s).cv.toInt ∧ (ramp mag s).cv.toInt ≤ s.tv.toInt := by
  have hpos : 0 ≤ s.delta.toInt := by
    have hfalling := h.falling
    omega
  have hinc := rampInc_nonneg hpos mag
  rw [ramp_cv_of_rising hdir hpos]
  omega

/-- A ramp at or above its target that does not rise goes down to it, and stops there (R132). -/
theorem ramp_cv_of_above {mag : Nat} {s : State} (hdir : s.tv.toInt ≤ s.cv.toInt) (hdelta : s.delta.toInt ≤ 0) :
    s.tv.toInt ≤ (ramp mag s).cv.toInt ∧ (ramp mag s).cv.toInt ≤ s.cv.toInt := by
  have hinc := rampInc_nonpos hdelta mag
  rw [ramp_cv_of_falling hdir hdelta]
  omega

/-- What is left of the room after the increment of this tick (R134). -/
theorem room_after_inc {mag : Nat} {s : State} (h : Primed mag s) (hdelta : 0 < s.delta.toInt)
    (hdir : s.tv.toInt ≤ s.cv.toInt) :
    4294967296 * (s.cv.toInt + rampInc s.delta mag - s.tv.toInt) ≤
      s.delta.toInt * (4294967807 - s.pa.toInt) :=
  calc 4294967296 * (s.cv.toInt + rampInc s.delta mag - s.tv.toInt)
      = 4294967296 * (s.cv.toInt - s.tv.toInt) + 4294967296 * rampInc s.delta mag := by ring
    _ ≤ s.delta.toInt * (4294967807 - s.pa.toInt - mag) + s.delta.toInt * mag :=
        Int.add_le_add (h.room hdelta hdir) (one_mul_rampInc_le _ _)
    _ = s.delta.toInt * (4294967807 - s.pa.toInt) := by ring

/-- A rising ramp at or above its target moves on by the whole increment, by no more than its basis past the
target (R133, R134). -/
theorem ramp_cv_of_past {mag : Nat} {s : State} (h : Primed mag s) (hdelta : 0 < s.delta.toInt)
    (hdir : s.tv.toInt ≤ s.cv.toInt) :
    (ramp mag s).cv.toInt = s.cv.toInt + rampInc s.delta mag ∧
      (ramp mag s).cv.toInt < s.tv.toInt + s.delta.toInt := by
  obtain ⟨hpalo, -⟩ := h.pa_range
  obtain ⟨-, hdhi⟩ := h.delta_range
  obtain ⟨hcvlo, -⟩ := h.cv_range
  have hinc := rampInc_nonneg hdelta.le mag
  have hroom := room_after_inc h hdelta hdir
  have hspent : s.delta.toInt * (4294967807 - s.pa.toInt) ≤ s.delta.toInt * 4294967295 :=
    Int.mul_le_mul_of_nonneg_left (by omega) hdelta.le
  have hamp := amplitude_range s.cells
  rw [← h.target] at hamp
  have hcv : (ramp mag s).cv.toInt = s.cv.toInt + rampInc s.delta mag := by
    rw [ramp_cv, rising, if_neg (by simpa using hdir), max_eq_left (by omega),
      sfxOfRaw_toInt (by omega) (by omega)]
  omega

/-- The three places where a ramp can be between step 2 and step 3. -/
theorem below_or_above_or_past (s : State) :
    s.cv.toInt < s.tv.toInt ∨ (s.tv.toInt ≤ s.cv.toInt ∧ s.delta.toInt ≤ 0) ∨
      (s.tv.toInt ≤ s.cv.toInt ∧ 0 < s.delta.toInt) := by
  omega

theorem ramp_cv_range {mag : Nat} {s : State} (h : Primed mag s) :
    -4294967296 ≤ (ramp mag s).cv.toInt ∧ (ramp mag s).cv.toInt < 12884901888 := by
  obtain ⟨hcvlo, hcvhi⟩ := h.cv_range
  have hamp := amplitude_range s.cells
  rw [← h.target] at hamp
  rcases below_or_above_or_past s with hdir | ⟨hdir, hdelta⟩ | ⟨hdir, hdelta⟩
  · have hcv := ramp_cv_of_below h hdir
    omega
  · have hcv := ramp_cv_of_above (mag := mag) hdir hdelta
    omega
  · have hcv := ramp_cv_of_past h hdelta hdir
    have hinc := rampInc_nonneg hdelta.le mag
    have hbasis := h.basis hdelta
    omega

/-- The bounds of R33 after a tick. -/
theorem rampBounds_finishTick {mag : Nat} {s : State} (h : Primed mag s) : (finishTick mag s).RampBounds := by
  have hamp := amplitude_range s.cells
  rw [← h.target] at hamp
  refine (rampBounds_iff _).mpr ⟨hamp, ramp_cv_range h, h.delta_range, .inr h.pa_range, ?_, ?_⟩
  · intro hneg
    have hneg' : s.delta.toInt < 0 := hneg
    exact (ramp_cv_of_above (h.falling hneg') hneg'.le).1
  · intro hzero
    have hzero' : s.delta.toInt = 0 := hzero
    have hlevel : s.cv.toInt = s.tv.toInt := by rw [h.level hzero']
    have hcv := ramp_cv_of_above (mag := mag) hlevel.ge hzero'.le
    exact BitVec.toInt_inj.mp (by simp only [finishTick_cv, finishTick_tv]; omega)

/-- The history after a tick. -/
theorem rampHistory_finishTick {mag : Nat} {s : State} (h : Primed mag s) : (finishTick mag s).RampHistory := by
  refine (rampHistory_iff _).mpr ⟨h.target, fun hpos => ⟨h.basis hpos, ?_⟩⟩
  have hpos' : 0 < s.delta.toInt := hpos
  simp only [finishTick_cv, finishTick_tv, finishTick_delta, finishTick_pa]
  obtain ⟨-, hpahi⟩ := h.pa_range
  by_cases hdir : s.cv.toInt < s.tv.toInt
  · have hcv := ramp_cv_of_below h hdir
    have hleft : 0 ≤ s.delta.toInt * (4294967807 - s.pa.toInt) := Int.mul_nonneg hpos'.le (by omega)
    omega
  · rw [(ramp_cv_of_past h hpos' (not_lt.mp hdir)).1]
    exact room_after_inc h hpos' (not_lt.mp hdir)

/-! ### The statements -/

theorem execTick_of_not_due {speed trig : Sfx} {s : State} (hs : s.RampReady) (hspeed : 512 ≤ speed.toInt.natAbs)
    (htrig : s.kind = 1 → trig.toInt.natAbs < 512) (hpa : 512 ≤ s.pa.toInt - absSfx speed) :
    execTick speed trig s =
      .next (finishTick (absSfx speed) { s with pa := BitVec.ofInt 64 (s.pa.toInt - absSfx speed) }) :=
  execTick_of_steps hs hspeed (applyTrigger_of_not_triggered htrig) (advance_of_not_due hpa)

/-- A falling ramp has an increment of at least one unit (R127). -/
theorem rampInc_neg {delta : Sfx} {mag : Nat} (hdelta : delta.toInt < 0) (hmag : 0 < mag) :
    rampInc delta mag < 0 :=
  Int.ediv_neg_of_neg_of_pos (Int.mul_neg_of_neg_of_pos hdelta (by omega)) (by decide)

/-- Settles O43: a falling ramp is clamped at its target from above, and its increment is negative. -/
theorem fallingRampNeverUndershoots : Obligations.FallingRampNeverUndershoots := by
  intro speed trig s hs hdelta hdir hspeed htrig hpa
  have hinc : rampInc s.delta (absSfx speed) < 0 := rampInc_neg hdelta (by rw [absSfx]; omega)
  have hcv := ramp_cv_of_falling hdir hdelta.le (absSfx speed)
  refine ⟨_, execTick_of_not_due hs hspeed htrig hpa, rfl, ?_⟩
  change s.tv.toInt ≤ (ramp (absSfx speed) s).cv.toInt ∧ (ramp (absSfx speed) s).cv.toInt ≤ s.cv.toInt ∧
    (s.tv.toInt < s.cv.toInt → (ramp (absSfx speed) s).cv.toInt < s.cv.toInt)
  omega

/-- Settles O44: under the invariant a rising ramp past its target moves on by the whole increment. -/
theorem risingRampOvershoots : Obligations.RisingRampOvershoots := by
  intro speed trig s hinv hs hdelta hdir hspeed htrig hpa
  obtain ⟨-, hramp⟩ := hinv hs.1
  obtain ⟨hbounds, hhistory⟩ := hramp hs.2
  have hprimed : Primed (absSfx speed) { s with pa := BitVec.ofInt 64 (s.pa.toInt - absSfx speed) } :=
    primed_of_not_due hbounds hhistory hpa
  obtain ⟨hcv, -⟩ := ramp_cv_of_past hprimed hdelta hdir
  refine ⟨_, execTick_of_not_due hs hspeed htrig hpa, rfl, hcv, fun hbig => ?_⟩
  change s.tv.toInt < (ramp (absSfx speed) _).cv.toInt
  rw [hcv, rampInc_eq]
  have hinc : 1 ≤ s.delta.toInt * (absSfx speed : Int) / 4294967296 := by rw [absSfx]; omega
  dsimp only
  omega

end Sys2Proof.RampRange
end

section
/-!
PROOFS. What a command leaves as it was, and that it completes (spec/60_exceptions.md R172, spec/70_reset_and_hazards.md
R192, R195; spec/46_housekeeping.md R161; spec/30_encoding.md R71). Of the commands only an `INIT` writes the
configuration; so a `TICK` or a `BSTEP` finds the legal width and seed that an `INIT` latched.
-/

namespace Sys2Proof.Completion

open Sys2Proof.Machine Sys2Proof.InitRules Sys2Proof.RampKinds Sys2Proof.ConstantSpeed Sys2Proof.Resettable
  Sys2Proof.Block Sys2Proof.Exceptions Sys2Proof.Seeding Sys2Proof.UnfrozenTick

/-! ### The configuration (R161) -/

/-- `t` has the configuration that `s` has. -/
structure SameConfig (s t : State) : Prop where
  rule_eq : t.rule = s.rule
  order_eq : t.order = s.order
  seed_eq : t.seed = s.seed
  kind_eq : t.kind = s.kind

theorem SameConfig.refl (s : State) : SameConfig s s := ⟨rfl, rfl, rfl, rfl⟩

theorem SameConfig.trans {s t u : State} (h1 : SameConfig s t) (h2 : SameConfig t u) : SameConfig s u :=
  ⟨h2.rule_eq.trans h1.rule_eq, h2.order_eq.trans h1.order_eq, h2.seed_eq.trans h1.seed_eq,
    h2.kind_eq.trans h1.kind_eq⟩

theorem SameConfig.configOk {s t : State} (h : SameConfig s t) (hs : s.ConfigOk) : t.ConfigOk := by
  rw [State.ConfigOk, h.order_eq, h.kind_eq, h.seed_eq]
  exact hs

theorem sameConfig_applyTrigger {trig : Sfx} {s t : State} (h : applyTrigger trig s = .ok t) : SameConfig s t := by
  rcases applyTrigger_ok h with ⟨-, rfl⟩ | ⟨-, -, hreseed⟩
  · exact .refl _
  · obtain ⟨o, -, -, rfl⟩ := reseed_ok hreseed
    exact ⟨rfl, rfl, rfl, rfl⟩

theorem sameConfig_advance {mag : Nat} {s t : State} (h : advance mag s = .ok t) : SameConfig s t := by
  rcases advance_ok h with ⟨-, rfl⟩ | ⟨-, o, g, -, -, rfl⟩ <;> exact ⟨rfl, rfl, rfl, rfl⟩

/-- Steps 1 to 6 of a `TICK`, with the trigger fragment before them, write no configuration. -/
theorem sameConfig_steps {trig : Sfx} {mag : Nat} {s s1 s2 : State} (htrigger : applyTrigger trig s = .ok s1)
    (hadvance : advance mag s1 = .ok s2) : SameConfig s (finishTick mag s2) :=
  ((sameConfig_applyTrigger htrigger).trans (sameConfig_advance hadvance)).trans ⟨rfl, rfl, rfl, rfl⟩

theorem ready_steps {trig : Sfx} {mag : Nat} {s s1 s2 : State} (htrigger : applyTrigger trig s = .ok s1)
    (hadvance : advance mag s1 = .ok s2) : (finishTick mag s2).ready = s.ready := by
  obtain ⟨-, hready1, -⟩ := applyTrigger_frame htrigger
  obtain ⟨-, hready2, -⟩ := advance_frame hadvance
  exact hready2.trans hready1

theorem raiseErr_ready_of_not_endsInstance {c : Cause} (h : endsInstance c = false) (s : State) :
    (raiseErr c s).ready = s.ready := by
  simp [h]

theorem execTick_frame {speed trig : Sfx} {s t : State} (h : execTick speed trig s = .next t) :
    SameConfig s t ∧ t.ready = s.ready := by
  rcases execTick_next h with ⟨-, rfl⟩ | ⟨-, -, rfl⟩ | ⟨-, -, -, rfl⟩ | ⟨-, -, -, s1, s2, h1, h2, rfl⟩
  · exact ⟨⟨rfl, rfl, rfl, rfl⟩, raiseErr_ready_of_not_endsInstance rfl s⟩
  · exact ⟨⟨rfl, rfl, rfl, rfl⟩, raiseErr_ready_of_not_endsInstance rfl s⟩
  · exact ⟨⟨rfl, rfl, rfl, rfl⟩, rfl⟩
  · exact ⟨sameConfig_steps h1 h2, ready_steps h1 h2⟩

theorem execBstep_frame {s t : State} (h : execBstep s = .next t) : SameConfig s t ∧ t.ready = s.ready := by
  rcases execBstep_next h with ⟨-, rfl⟩ | ⟨-, -, rfl⟩ | ⟨-, -, o, -, rfl⟩
  · exact ⟨⟨rfl, rfl, rfl, rfl⟩, raiseErr_ready_of_not_endsInstance rfl s⟩
  · exact ⟨⟨rfl, rfl, rfl, rfl⟩, raiseErr_ready_of_not_endsInstance rfl s⟩
  · exact ⟨⟨rfl, rfl, rfl, rfl⟩, rfl⟩

/-- A command that is no `INIT` leaves the configuration and `READY` (R161). -/
theorem exec_frame_of_not_init {i : Instr} {s t : State} (hi : isInit i = false) (h : exec i s = .next t) :
    SameConfig s t ∧ t.ready = s.ready := by
  cases i with
  | nop => cases h; exact ⟨.refl _, rfl⟩
  | initR rule order seed => cases hi
  | initRR rule order seed => cases hi
  | initB rule order seed => cases hi
  | tick speed trig => exact execTick_frame h
  | bstep => exact execBstep_frame h

/-- An `INIT` configures, and is permitted, when its operands pass the check (R195 item 1). -/
theorem configures_of_mem_initsOf {rule order : Word} {seed : SeedValue} {i : Instr}
    (hi : i ∈ initsOf rule order seed) : configures i = initOk order seed := by
  rcases mem_initsOf.mp hi with rfl | rfl | rfl <;> rfl

theorem permits_of_mem_initsOf {rule order : Word} {seed : SeedValue} {i : Instr}
    (hi : i ∈ initsOf rule order seed) (s : State) : s.permits i = initOk order seed := by
  rcases mem_initsOf.mp hi with rfl | rfl | rfl <;> rfl

theorem isInit_of_mem_initsOf {rule order : Word} {seed : SeedValue} {i : Instr}
    (hi : i ∈ initsOf rule order seed) : isInit i = true := by
  rcases mem_initsOf.mp hi with rfl | rfl | rfl <;> rfl

theorem ne_nop_of_mem_initsOf {rule order : Word} {seed : SeedValue} {i : Instr}
    (hi : i ∈ initsOf rule order seed) : i ≠ .nop := by
  rintro rfl
  cases isInit_of_mem_initsOf hi

/-- A command that is no successful `INIT` leaves the configuration, a failed `INIT` included (R161). -/
theorem exec_sameConfig_of_not_configures {i : Instr} {s t : State} (hi : configures i = false)
    (h : exec i s = .next t) : SameConfig s t := by
  by_cases hinit : isInit i = true
  · obtain ⟨rule, order, seed, hmem⟩ := exists_mem_initsOf hinit
    rcases exec_init_next hmem h with ⟨c, -, rfl⟩ | ⟨o, hcheck, -⟩
    · exact ⟨rfl, rfl, rfl, rfl⟩
    · rw [configures_of_mem_initsOf hmem, initOk_of_checkInit_ok hcheck] at hi
      cases hi
  · exact (exec_frame_of_not_init (by simpa using hinit) h).1

/-- The command of an accepted input runs on the state that has taken it (R12, R84). -/
theorem step_of_accepts {s : State} {c : Command} {i : Instr} (hnext : nextInput s = .command c)
    (hdecode : decode c = .ok i) : step s = exec i (beginStep s) := by
  rw [step, hnext, takeInput, acceptCommand, hdecode]

/-- Settles O50: an illegal word and a failed `INIT` keep the configuration, and so does every other command. -/
theorem onlyInitConfigures : Obligations.OnlyInitConfigures := by
  intro s t hstep hreset
  rcases step_next hstep with ⟨-, rfl⟩ | ⟨hnext, -⟩ | ⟨c, hnext, haccept⟩
  · exact ⟨fun _ => ⟨rfl, rfl, rfl, rfl⟩, fun _ => rfl⟩
  · exact absurd hnext hreset
  rcases acceptCommand_next haccept with ⟨-, rfl⟩ | ⟨i, hdecode, hexec⟩
  · exact ⟨fun _ => ⟨rfl, rfl, rfl, rfl⟩, fun _ => raiseErr_ready_of_not_endsInstance rfl (beginStep s)⟩
  · refine ⟨fun hconf => ?_, fun hinit => ?_⟩
    · obtain ⟨hrule, horder, hseed, hkind⟩ :=
        exec_sameConfig_of_not_configures (hconf i ⟨c, hnext, hdecode⟩) hexec
      exact ⟨hrule, horder, hseed, hkind⟩
    · exact (exec_frame_of_not_init (hinit i ⟨c, hnext, hdecode⟩) hexec).2

/-! ### The output port (R71) -/

theorem permits_tick_iff (s : State) (speed trig : Sfx) :
    s.permits (.tick speed trig) = true ↔ s.RampReady := by
  simp [State.permits]

theorem permits_bstep_iff (s : State) : s.permits .bstep = true ↔ s.BlockReady := by
  simp [State.permits]

theorem execTick_out_iff {speed trig : Sfx} {s t : State} (hout : s.out = none)
    (h : execTick speed trig s = .next t) : t.out.isSome = true ↔ s.RampReady := by
  rcases execTick_next h with ⟨hready, rfl⟩ | ⟨hready, hkind, rfl⟩ | ⟨hready, hkind, -, rfl⟩ |
    ⟨hready, hkind, -, s1, s2, -, -, rfl⟩
  · simp [hout, hready]
  · simp [hout, hkind]
  · exact ⟨fun _ => ⟨hready, hkind⟩, fun _ => rfl⟩
  · exact ⟨fun _ => ⟨hready, hkind⟩, fun _ => rfl⟩

theorem execBstep_out_iff {s t : State} (hout : s.out = none) (h : execBstep s = .next t) :
    t.out.isSome = true ↔ s.BlockReady := by
  rcases execBstep_next h with ⟨hready, rfl⟩ | ⟨hready, hkind, rfl⟩ | ⟨hready, hkind, o, -, rfl⟩
  · simp [hout, hready]
  · simp [hout, hkind]
  · exact ⟨fun _ => ⟨hready, hkind⟩, fun _ => rfl⟩

theorem exec_init_out {rule order : Word} {seed : SeedValue} {i : Instr} {s t : State}
    (hi : i ∈ initsOf rule order seed) (h : exec i s = .next t) : t.out = s.out := by
  rcases exec_init_next hi h with ⟨c, -, rfl⟩ | ⟨o, -, rfl | ⟨k, -, rfl⟩⟩ <;> rfl

/-- With the port idle before it, a command emits exactly when it is a permitted `TICK` or `BSTEP`. -/
theorem exec_out_iff {i : Instr} {s t : State} (hout : s.out = none) (h : exec i s = .next t) :
    t.out.isSome = true ↔ s.permits i = true ∧ emitsSample i = true := by
  have hsilent : t.out = s.out → emitsSample i = false →
      (t.out.isSome = true ↔ s.permits i = true ∧ emitsSample i = true) := by
    intro hsame hi
    simp [hsame, hout, hi]
  cases i with
  | nop => cases h; exact hsilent rfl rfl
  | initR rule order seed => exact hsilent (exec_init_out (mem_initsOf.mpr (.inl rfl)) h) rfl
  | initRR rule order seed => exact hsilent (exec_init_out (mem_initsOf.mpr (.inr (.inl rfl))) h) rfl
  | initB rule order seed => exact hsilent (exec_init_out (mem_initsOf.mpr (.inr (.inr rfl))) h) rfl
  | tick speed trig =>
    rw [permits_tick_iff, execTick_out_iff hout h]
    exact (and_iff_left rfl).symm
  | bstep =>
    rw [permits_bstep_iff, execBstep_out_iff hout h]
    exact (and_iff_left rfl).symm

theorem not_accepts_of_nextInput_ne {s : State} (h : ∀ c, nextInput s ≠ .command c) (i : Instr) : ¬ Accepts s i :=
  fun ⟨c, hnext, _⟩ => h c hnext

/-- The word presented decodes to at most one command. -/
theorem accepts_iff_of_decode {s : State} {c : Command} (hnext : nextInput s = .command c) (i : Instr) :
    Accepts s i ↔ decode c = .ok i := by
  refine ⟨fun ⟨c', hnext', hdecode⟩ => ?_, fun hdecode => ⟨c, hnext, hdecode⟩⟩
  cases hnext.symm.trans hnext'
  exact hdecode

/-- Settles O51: a step starts with the port idle, and an input that is no legal command leaves it so. -/
theorem onlyProcessingEmits : Obligations.OnlyProcessingEmits := by
  intro s t hstep
  have hnone : t.out = none → (∀ i, ¬ Accepts s i) →
      (outValid t = true ↔ ∃ i, Accepts s i ∧ s.permits i = true ∧ emitsSample i = true) := by
    intro hout hacc
    simp [outValid, hout, hacc]
  rcases step_next hstep with ⟨hnext, rfl⟩ | ⟨hnext, rfl⟩ | ⟨c, hnext, haccept⟩
  · exact hnone rfl (not_accepts_of_nextInput_ne (by simp [hnext]))
  · exact hnone rfl (not_accepts_of_nextInput_ne (by simp [hnext]))
  rcases acceptCommand_next haccept with ⟨⟨e, hdecode⟩, rfl⟩ | ⟨i, hdecode, hexec⟩
  · refine hnone rfl fun i hi => ?_
    cases hdecode.symm.trans ((accepts_iff_of_decode hnext i).mp hi)
  · have hi : outValid t = true ↔ s.permits i = true ∧ emitsSample i = true :=
      exec_out_iff (s := beginStep s) rfl hexec
    rw [hi]
    refine ⟨fun hpermit => ⟨i, ⟨c, hnext, hdecode⟩, hpermit⟩, fun ⟨i', hacc, hpermit⟩ => ?_⟩
    cases hdecode.symm.trans ((accepts_iff_of_decode hnext i').mp hacc)
    exact hpermit

/-! ### Refusals (R172, R195) -/

/-- An `INIT` whose operands fail the check is refused with the cause the check found. -/
theorem exec_init_of_not_initOk {rule order : Word} {seed : SeedValue} {i : Instr}
    (hi : i ∈ initsOf rule order seed) (hok : initOk order seed = false) (s : State) :
    ∃ c, c ≠ .noError ∧
      exec i s = .next { s with ready := false, err := if s.err = .noError then c else s.err } := by
  cases hcheck : checkInit order seed with
  | error c =>
    have hends := endsInstance_of_checkInit_error hcheck
    refine ⟨c, ?_, exec_init_of_check_error hi hcheck s⟩
    rintro rfl
    cases hends
  | ok o => exact absurd (initOk_of_checkInit_ok hcheck) (by simp [hok])

/-- An instruction is `NOP`, one of the three `INIT`s, or one of the two that process. -/
theorem nop_or_init_or_processing (i : Instr) :
    i = .nop ∨ (∃ rule order seed, i ∈ initsOf rule order seed) ∨
      (∃ speed trig, i ∈ [Instr.tick speed trig, .bstep]) := by
  cases i with
  | nop => exact .inl rfl
  | initR rule order seed => exact .inr (.inl (exists_mem_initsOf rfl))
  | initRR rule order seed => exact .inr (.inl (exists_mem_initsOf rfl))
  | initB rule order seed => exact .inr (.inl (exists_mem_initsOf rfl))
  | tick speed trig => exact .inr (.inr ⟨speed, trig, List.mem_cons_self⟩)
  | bstep => exact .inr (.inr ⟨0, 0, by simp⟩)

theorem isInit_of_mem_processing {speed trig : Sfx} {i : Instr} (hi : i ∈ [Instr.tick speed trig, .bstep]) :
    isInit i = false := by
  rcases List.mem_pair.mp hi with rfl | rfl <;> rfl

/-- Settles O17: an `INIT` by its operand check, `TICK` and `BSTEP` by `READY` and then `KIND`. -/
theorem unpermittedCommandIsRefusedWhole : Obligations.UnpermittedCommandIsRefusedWhole := by
  intro i s hpermits
  rcases nop_or_init_or_processing i with rfl | ⟨rule, order, seed, hi⟩ | ⟨speed, trig, hi⟩
  · cases hpermits
  · rw [permits_of_mem_initsOf hi] at hpermits
    rw [if_pos (isInit_of_mem_initsOf hi)]
    exact exec_init_of_not_initOk hi hpermits s
  · rw [if_neg (by simp [isInit_of_mem_processing hi])]
    by_cases hready : s.ready = true
    · exact ⟨.kindMismatch, by decide, exec_processing_of_wrong_kind hi hready hpermits⟩
    · exact ⟨.notReady, by decide, exec_processing_of_not_ready hi (by simpa using hready)⟩

/-! ### Completion (R192) -/

/-- A reseed finds a legal width and an admissible seed (R95, R100). -/
theorem exists_applyTrigger {s : State} (hs : s.ConfigOk) (trig : Sfx) : ∃ t, applyTrigger trig s = .ok t := by
  obtain ⟨h1, h6, -, hseed⟩ := hs
  by_cases hactive : s.kind = Config.kindRRamp ∧ triggerActive trig = true
  · obtain ⟨hkind, htrig⟩ := hactive
    rw [applyTrigger_of_active hkind htrig]
    exact ⟨_, reseed_of_admissible (o := ⟨s.order.toNat, h1, h6⟩) rfl hseed⟩
  · exact ⟨s, applyTrigger_of_inactive hactive⟩

/-- The catch-up loop finds a legal width (R95). -/
theorem exists_advance {s : State} (hs : s.ConfigOk) (mag : Nat) : ∃ t, advance mag s = .ok t := by
  obtain ⟨h1, h6, -, -⟩ := hs
  cases hadvance : advance mag s with
  | ok t => exact ⟨t, rfl⟩
  | error f =>
    have hlegal := legalOrder_of_range h1 h6
    cases hlegal.symm.trans (advance_error hadvance).1

/-- The steps of an unfrozen `TICK` of a legal configuration all have a meaning. -/
theorem exists_steps {speed : Sfx} {s : State} (hconfig : s.ConfigOk) (hs : s.RampReady)
    (hspeed : 512 ≤ speed.toInt.natAbs) (trig : Sfx) :
    ∃ s1 s2, applyTrigger trig s = .ok s1 ∧ advance (absSfx speed) s1 = .ok s2 ∧
      execTick speed trig s = .next (finishTick (absSfx speed) s2) := by
  obtain ⟨s1, htrigger⟩ := exists_applyTrigger hconfig trig
  obtain ⟨s2, hadvance⟩ := exists_advance ((sameConfig_applyTrigger htrigger).configOk hconfig) (absSfx speed)
  exact ⟨s1, s2, htrigger, hadvance, execTick_of_steps hs hspeed htrigger hadvance⟩

theorem execTick_completes {speed trig : Sfx} {s : State} (hconfig : s.ConfigOk) (hs : s.RampReady) :
    ∃ t, execTick speed trig s = .next t ∧ t.err = s.err ∧ t.ready = true := by
  by_cases hspeed : 512 ≤ speed.toInt.natAbs
  · obtain ⟨s1, s2, htrigger, hadvance, hexec⟩ := exists_steps hconfig hs hspeed trig
    refine ⟨_, hexec, ?_, (ready_steps htrigger hadvance).trans hs.1⟩
    calc (finishTick (absSfx speed) s2).err = s2.err := finishTick_err _ _
      _ = s1.err := advance_err hadvance
      _ = s.err := applyTrigger_err htrigger
  · exact ⟨_, execTick_of_frozen hs (not_le.mp hspeed) trig, rfl, hs.1⟩

theorem execBstep_completes {s : State} (hconfig : s.ConfigOk) (hs : s.BlockReady) :
    ∃ t, execBstep s = .next t ∧ t.err = s.err ∧ t.ready = true := by
  obtain ⟨h1, h6, -, -⟩ := hconfig
  exact ⟨_, execBstep_of_blockReady (o := ⟨s.order.toNat, h1, h6⟩) hs rfl, rfl, hs.1⟩

theorem exec_init_completes {rule order : Word} {seed : SeedValue} {i : Instr}
    (hi : i ∈ initsOf rule order seed) (hok : initOk order seed = true) (s : State) :
    ∃ t, exec i s = .next t ∧ t.err = .noError ∧ t.ready = true := by
  cases hcheck : checkInit order seed with
  | error c => exact absurd (initOk_of_checkInit_error hcheck) (by simp [hok])
  | ok o =>
    obtain ⟨t, hexec, hready, herr, -⟩ := exec_init_of_check_ok hi hcheck s
    exact ⟨t, hexec, herr, hready⟩

/-- Settles O18: under the invariant a ready engine has the legal configuration that its commands ask for. -/
theorem permittedCommandCompletes : Obligations.PermittedCommandCompletes := by
  intro i s hinv hpermits
  rcases nop_or_init_or_processing i with rfl | ⟨rule, order, seed, hi⟩ | ⟨speed, trig, hi⟩
  · exact ⟨s, rfl, rfl, rfl⟩
  · rw [permits_of_mem_initsOf hi] at hpermits
    rw [if_pos (isInit_of_mem_initsOf hi), if_neg (ne_nop_of_mem_initsOf hi)]
    exact exec_init_completes hi hpermits s
  · rcases List.mem_pair.mp hi with rfl | rfl
    · have hs := (permits_tick_iff s speed trig).mp hpermits
      exact execTick_completes (hinv hs.1).1 hs
    · have hs := (permits_bstep_iff s).mp hpermits
      exact execBstep_completes (hinv hs.1).1 hs

theorem exec_completes {s : State} (hinv : s.Inv) (i : Instr) : ∃ t, exec i s = .next t := by
  cases hpermits : s.permits i with
  | true =>
    obtain ⟨t, hexec, -⟩ := permittedCommandCompletes i s hinv hpermits
    exact ⟨t, hexec⟩
  | false =>
    obtain ⟨c, -, hexec⟩ := unpermittedCommandIsRefusedWhole i s hpermits
    exact ⟨_, hexec⟩

/-- Settles O54: a command completes whether it is permitted or not, and the other inputs always do. -/
theorem engineNeverStops : Obligations.EngineNeverStops := by
  intro s hinv
  cases hnext : nextInput s with
  | idle => exact ⟨beginStep s, by rw [step, hnext, takeInput]⟩
  | reset => exact ⟨resetEvent (beginStep s), by rw [step, hnext, takeInput]⟩
  | command c =>
    cases hdecode : decode c with
    | error e => exact ⟨_, step_of_decode_error hnext hdecode⟩
    | ok i =>
      have hbegin : (beginStep s).Inv := hinv
      rw [step_of_accepts hnext hdecode]
      exact exec_completes hbegin i

end Sys2Proof.Completion
end

section
/-!
PROOFS. What a `TICK` shows at its speed: only the magnitude counts (spec/43_ramp.md R123), a generation at 1.0 or more
lands on its target (spec/44_resettable.md R146), and a frozen block repeats `CV` (spec/43_ramp.md R121, R123).
-/

namespace Sys2Proof.Speed

open Sys2Proof.Machine Sys2Proof.ConstantSpeed Sys2Proof.Resettable Sys2Proof.UnfrozenTick Sys2Proof.RampRange
  Sys2Proof.Completion

/-- Settles O33: the frozen test and every step read the magnitude of the port. -/
theorem onlyTheSpeedMagnitudeCounts : Obligations.OnlyTheSpeedMagnitudeCounts := by
  intro speed speed' trig s hsame
  have hmag : absSfx speed = absSfx speed' := hsame
  change execTick speed trig s = execTick speed' trig s
  unfold execTick frozen
  rw [hmag]

/-! ### Full speed (R146) -/

/-- A basis that reaches from `CV` to the target takes `CV` there in one tick of magnitude 1.0 or more. -/
theorem ramp_cv_of_full_speed {mag : Nat} {s : State} (hbasis : s.delta.toInt = s.tv.toInt - s.cv.toInt)
    (hmag : 4294967296 ≤ mag) : (ramp mag s).cv = s.tv := by
  have hone : (2 : Int) ^ Config.fracBits ≤ mag := by
    rw [fracBits_eq]
    omega
  refine BitVec.toInt_inj.mp ?_
  by_cases hdir : s.cv.toInt < s.tv.toInt
  · have hreach : s.delta.toInt ≤ rampInc s.delta mag :=
      Int.le_ediv_of_mul_le (by decide) (Int.mul_le_mul_of_nonneg_left hone (by omega))
    rw [ramp_cv_of_rising hdir (by omega), min_eq_right (by omega)]
  · have hreach : rampInc s.delta mag ≤ s.delta.toInt :=
      Int.ediv_le_of_le_mul (by decide) (Int.mul_le_mul_of_nonpos_left (by omega) hone)
    rw [ramp_cv_of_falling (not_lt.mp hdir) (by omega), max_eq_right (by omega)]

/-- The catch-up loop leaves the whole distance to the target as the basis (R125). -/
theorem basis_of_due {mag : Nat} {s t : State} (h : advance mag s = .ok t)
    (hcv : -4294967296 ≤ s.cv.toInt ∧ s.cv.toInt < 12884901888) (hdue : s.pa.toInt - mag < 512) :
    t.delta.toInt = t.tv.toInt - t.cv.toInt := by
  obtain ⟨cells, rfl⟩ := eq_generated_of_advance h hdue
  exact generated_delta_toInt hcv _ _

/-- Settles O45: a tick that generates aims at the new target, which full speed reaches. -/
theorem fullSpeedGenerationReachesTheTarget : Obligations.FullSpeedGenerationReachesTheTarget := by
  intro speed trig s hinv hs hspeed hdue
  obtain ⟨hconfig, hramp⟩ := hinv hs.1
  obtain ⟨-, hcv, -, hpa, -⟩ := (rampBounds_iff s).mp (hramp hs.2).1
  have hmag : 512 ≤ absSfx speed := le_trans (by decide) hspeed
  obtain ⟨s1, s2, htrigger, hadvance, hexec⟩ := exists_steps hconfig hs hmag trig
  obtain ⟨-, hdue1⟩ := applyTrigger_pa_of_due htrigger (paInRange_of_bounds hpa).1 hmag hdue
  have hbasis := basis_of_due hadvance ((applyTrigger_frame htrigger).1 ▸ hcv) hdue1
  have hland : (ramp (absSfx speed) s2).cv = s2.tv := ramp_cv_of_full_speed hbasis hspeed
  refine ⟨finishTick (absSfx speed) s2, hexec, hland, ?_⟩
  rw [finishTick_out, finishTick_tv, hland]

/-! ### A frozen block (R121, R123) -/

/-- A run of `n` frozen `TICK`s emits the present `CV` `n` times. -/
theorem emissions_replicate_frozen {speed : Sfx} {s : State} {rest : List Input} (n : Nat) (hs : s.RampReady)
    (hspeed : speed.toInt.natAbs < 512)
    (hinputs : s.inputs = inputsOf (List.replicate n (.tick speed 0)) ++ rest) :
    emissions n s = List.replicate n s.cv := by
  induction n generalizing s with
  | zero => rfl
  | succ n ih =>
    have hstep : step s = .next (emit s.cv (beginStep s)) :=
      (Block.step_of_command hinputs (Codec.decode_encode _)).trans
        (execTick_of_frozen (s := beginStep s) hs hspeed 0)
    have htail : (beginStep s).inputs = inputsOf (List.replicate n (.tick speed 0)) ++ rest := by
      rw [beginStep_inputs, hinputs]
      rfl
    rw [emissions_succ_of_next n hstep, ih (s := emit s.cv (beginStep s)) hs htail]
    rfl

/-- Settles O47: `BLOCK` is that run (R83). -/
theorem frozenBlockRepeatsTheCurrentValue : Obligations.FrozenBlockRepeatsTheCurrentValue :=
  fun n _ _ hs hspeed => emissions_replicate_frozen n hs hspeed rfl

end Sys2Proof.Speed
end

section
/-!
PROOFS. The invariant of the engine (spec/10_state.md R33; spec/43_ramp.md R131 to R134): a reset leaves it
nothing to ask, an `INIT` establishes it, and a `TICK` keeps it because its steps leave the ramp primed.
-/

namespace Sys2Proof.Invariant

open Sys2Proof.Machine Sys2Proof.InitRules Sys2Proof.ConstantSpeed Sys2Proof.Exceptions Sys2Proof.Seeding
  Sys2Proof.RampRange Sys2Proof.Completion

/-- Nothing is asked of an engine that is not ready. -/
theorem inv_of_not_ready {s : State} (h : s.ready = false) : s.Inv :=
  fun hready => absurd (h.symm.trans hready) Bool.false_ne_true

/-- Settles O52: both forms of reset leave `READY` = 0. -/
theorem invariantHoldsAtReset : Obligations.InvariantHoldsAtReset :=
  ⟨inv_of_not_ready rfl, fun _ => inv_of_not_ready rfl⟩

/-- An error clears `READY` or leaves everything that the invariant is about (R172). -/
theorem inv_raiseErr {s : State} (h : s.Inv) (c : Cause) : (raiseErr c s).Inv := by
  intro hready
  rw [raiseErr_ready, Bool.and_eq_true] at hready
  exact h hready.1

/-! ### After an `INIT` (R120, R140, R150) -/

theorem configOk_startInstance {rule order : Word} {seed : SeedValue} {o : Order} {k : BitVec 2}
    (hcheck : checkInit order seed = .ok o) (hk : k ≠ 3) (s : State) :
    (startInstance k rule order o seed s).ConfigOk := by
  obtain ⟨hlegal, hseed⟩ := checkInit_ok hcheck
  obtain ⟨h1, h6, ho⟩ := legalOrder_eq_some hlegal
  refine ⟨?_, ?_, hk, hseed⟩
  · rw [startInstance_order, setWidth_order_toNat ho, ho]
    exact h1
  · rw [startInstance_order, setWidth_order_toNat ho, ho]
    exact h6

/-- A ramp starts on its target, with nothing to go (R120). -/
theorem rampBounds_startRamp (s : State) : (startRamp s).RampBounds := by
  have hamp := amplitude_range s.cells
  refine (rampBounds_iff _).mpr ⟨hamp, ?_, ?_, .inl rfl, ?_, fun _ => rfl⟩
  · rw [startRamp_cv]
    omega
  · rw [startRamp_delta, sfx_zero_toInt]
    decide
  · exact fun _ => le_rfl

theorem rampHistory_startRamp (s : State) : (startRamp s).RampHistory := by
  refine (rampHistory_iff _).mpr ⟨rfl, fun hpos => ?_⟩
  rw [startRamp_delta, sfx_zero_toInt] at hpos
  exact absurd hpos (lt_irrefl 0)

theorem exec_init_keeps_inv {rule order : Word} {seed : SeedValue} {i : Instr} {s t : State}
    (hi : i ∈ initsOf rule order seed) (h : exec i s = .next t) : t.Inv := by
  rcases exec_init_next hi h with ⟨c, -, rfl⟩ | ⟨o, hcheck, rfl | ⟨k, hk, rfl⟩⟩
  · exact inv_of_not_ready rfl
  · exact fun _ => ⟨configOk_startInstance hcheck (by decide) s, fun hramp => absurd rfl hramp⟩
  · have hk3 : k ≠ 3 := by
      rcases List.mem_pair.mp hk with rfl | rfl <;> decide
    exact fun _ => ⟨configOk_startInstance (rule := rule) hcheck hk3 s,
      fun _ => ⟨rampBounds_startRamp _, rampHistory_startRamp _⟩⟩

/-! ### The two commands that process -/

theorem execTick_keeps_inv {speed trig : Sfx} {s t : State} (hinv : s.Inv) (h : execTick speed trig s = .next t) :
    t.Inv := by
  rcases execTick_next h with ⟨-, rfl⟩ | ⟨-, -, rfl⟩ | ⟨-, -, -, rfl⟩ |
    ⟨hready, hkind, hfrozen, s1, s2, htrigger, hadvance, rfl⟩
  · exact inv_raiseErr hinv _
  · exact inv_raiseErr hinv _
  · exact hinv
  · obtain ⟨hconfig, hramp⟩ := hinv hready
    obtain ⟨hbounds, hhistory⟩ := hramp hkind
    have hspeed : 512 ≤ absSfx speed := not_lt.mp (of_decide_eq_false hfrozen)
    have hprimed := primed_of_tick hbounds hhistory htrigger hadvance hspeed
    exact fun _ => ⟨(sameConfig_steps htrigger hadvance).configOk hconfig,
      fun _ => ⟨rampBounds_finishTick hprimed, rampHistory_finishTick hprimed⟩⟩

/-- Kind `BLOCK` has no ramp to keep. -/
theorem execBstep_keeps_inv {s t : State} (hinv : s.Inv) (h : execBstep s = .next t) : t.Inv := by
  rcases execBstep_next h with ⟨-, rfl⟩ | ⟨-, -, rfl⟩ | ⟨-, hkind, o, -, rfl⟩
  · exact inv_raiseErr hinv _
  · exact inv_raiseErr hinv _
  · exact fun hready => ⟨(hinv hready).1, fun hramp => absurd hkind hramp⟩

theorem exec_keeps_inv {i : Instr} {s t : State} (hinv : s.Inv) (h : exec i s = .next t) : t.Inv := by
  cases i with
  | nop => cases h; exact hinv
  | initR rule order seed => exact exec_init_keeps_inv (mem_initsOf.mpr (.inl rfl)) h
  | initRR rule order seed => exact exec_init_keeps_inv (mem_initsOf.mpr (.inr (.inl rfl))) h
  | initB rule order seed => exact exec_init_keeps_inv (mem_initsOf.mpr (.inr (.inr rfl))) h
  | tick speed trig => exact execTick_keeps_inv hinv h
  | bstep => exact execBstep_keeps_inv hinv h

/-! ### Steps and runs -/

/-- Settles O53: taking the input changes no register, and each input keeps the invariant. -/
theorem stepKeepsTheInvariant : Obligations.StepKeepsTheInvariant := by
  intro s t hinv hstep
  have hbegin : (beginStep s).Inv := hinv
  rcases step_next hstep with ⟨-, rfl⟩ | ⟨-, rfl⟩ | ⟨c, -, haccept⟩
  · exact hbegin
  · exact inv_of_not_ready rfl
  · rcases acceptCommand_next haccept with ⟨-, rfl⟩ | ⟨i, -, hexec⟩
    · exact inv_raiseErr hbegin _
    · exact exec_keeps_inv hbegin hexec

/-- A run of `k + 1` steps that answers a next state is a step and a run of `k`. -/
theorem core_run_succ_next {k : Nat} {s t : State} (h : Host.Core.run Sys2Proof.core (k + 1) s = .next t) :
    ∃ u, step s = .next u ∧ Host.Core.run Sys2Proof.core k u = .next t := by
  have hrun := run_succ Sys2Proof.core k s
  cases hstep : step s with
  | next u => exact ⟨u, rfl, (core_run_succ_of_next k hstep).symm.trans h⟩
  | fault f =>
    have hcore : Sys2Proof.core.step s = .fault f := hstep
    rw [h, hcore] at hrun
    cases hrun
  | refused r =>
    have hcore : Sys2Proof.core.step s = .refused r := hstep
    rw [h, hcore] at hrun
    cases hrun

theorem run_keeps_inv {k : Nat} {s t : State} (hinv : s.Inv)
    (h : Host.Core.run Sys2Proof.core k s = .next t) : t.Inv := by
  induction k generalizing s with
  | zero => cases h; exact hinv
  | succ k ih =>
    obtain ⟨u, hstep, hrun⟩ := core_run_succ_next h
    exact ih (stepKeepsTheInvariant s u hinv hstep) hrun

/-- Settles O55: the invariant holds where `READY` = 0 and along every run, and it contains the bounds. -/
theorem rampRegistersStayInRange : Obligations.RampRegistersStayInRange := by
  intro k s t hready hrun htready hkind
  obtain ⟨-, hramp⟩ := run_keeps_inv (inv_of_not_ready hready) hrun htready
  have hne : t.kind ≠ Config.kindBlock := by
    rcases hkind with hk | hk <;> rw [hk] <;> decide
  obtain ⟨htv, hcv, hdelta, hpa, hfalling, hlevel⟩ := (rampBounds_iff t).mp (hramp hne).1
  exact ⟨htv, hcv, hdelta, hpa, hfalling, hlevel⟩

end Sys2Proof.Invariant
end

section
/-!
PROOFS. What one step does besides a command (spec/00_scope.md R12, spec/30_encoding.md R73,
spec/70_reset_and_hazards.md R190), and how an error is raised (spec/60_exceptions.md R172).
-/

namespace Sys2Proof.Inputs

open Sys2Proof.Machine Sys2Proof.Completion

/-- Taking the input, when the inputs to come are known. -/
theorem beginStep_of_inputs {s : State} {x : Input} {rest : List Input} (h : s.inputs = x :: rest) :
    beginStep s = { s with inputs := rest, out := none, fresh := s.fresh + 1 } := by
  rw [beginStep, h, List.tail_cons]

theorem nextInput_of_cons {s : State} {x : Input} {rest : List Input} (h : s.inputs = x :: rest) :
    nextInput s = x := by
  rw [nextInput, h]

/-- Settles O5: the input is taken, then its command is executed. -/
theorem stepRunsTheDecodedCommand : Obligations.StepRunsTheDecodedCommand := by
  intro s c rest i hinputs hdecode
  rw [← beginStep_of_inputs hinputs]
  exact step_of_accepts (nextInput_of_cons hinputs) hdecode

theorem step_of_idle {s : State} (h : nextInput s = .idle) : step s = .next (beginStep s) := by
  rw [step, h, takeInput]

theorem step_of_reset {s : State} (h : nextInput s = .reset) : step s = .next (resetEvent (beginStep s)) := by
  rw [step, h, takeInput]

/-- The status ports show the registers, which taking the input leaves. -/
theorem statusPort_beginStep (s : State) (r : Reg) : statusPort (beginStep s) r = statusPort s r := by
  cases r <;> rfl

/-- Settles O7: an empty list of inputs and a presented idle both only take the input. -/
theorem noCommandChangesNoRegister : Obligations.NoCommandChangesNoRegister := by
  intro s hidle
  have hnext : nextInput s = .idle := by
    rcases hidle with hempty | ⟨rest, hinputs⟩
    · rw [nextInput, hempty]
    · exact nextInput_of_cons hinputs
  exact ⟨beginStep s, step_of_idle hnext, statusPort_beginStep s, rfl, rfl⟩

/-- Settles O8: the reset event writes the three values, and the power-on state holds them. -/
theorem resetClearsReadyAndErr : Obligations.ResetClearsReadyAndErr := by
  refine ⟨fun s rest hinputs => ?_, rfl, rfl, rfl⟩
  refine ⟨_, step_of_reset (nextInput_of_cons hinputs), rfl, rfl, rfl, rfl, ?_⟩
  rw [resetEvent_inputs, beginStep_inputs, hinputs, List.tail_cons]

/-- The causes that end what was running are those of a failed `INIT` (R172). -/
theorem endsInstance_iff (c : Cause) : endsInstance c = true ↔ c = .orderRange ∨ c = .seedNegative := by
  cases c <;> decide

/-- Settles O9: the two kinds of cause, those that end what was running and the others. -/
theorem raisingKeepsTheFirstCause : Obligations.RaisingKeepsTheFirstCause := by
  intro c s
  by_cases hends : endsInstance c = true
  · rw [InitRules.raiseErr_of_endsInstance hends, if_pos ((endsInstance_iff c).mp hends)]
  · rw [Resettable.raiseErr_of_not_endsInstance (by simpa using hends),
      if_neg fun hc => hends ((endsInstance_iff c).mpr hc)]

end Sys2Proof.Inputs
end

section
/-!
PROOFS. Agreement (spec/10_state.md R41, spec/70_reset_and_hazards.md R201). A command reads a register only where the
two states agree on it: no register while `READY` = 0, the configuration and the cells once ready, and the ramp
registers in the ramp kinds, where the two states differ in nothing but the free-value index.
-/

namespace Sys2Proof.Agreement

open Sys2Proof.Machine Sys2Proof.InitRules Sys2Proof.RampKinds Sys2Proof.ConstantSpeed Sys2Proof.Resettable
  Sys2Proof.Block Sys2Proof.Exceptions Sys2Proof.Seeding Sys2Proof.Completion Sys2Proof.Inputs
  Sys2Proof.Invariant

/-- Two outcomes that no command tells apart: next states that agree, or one fault, or one refusal. -/
def OutcomesAgree : Host.Outcome State Fault Refusal → Host.Outcome State Fault Refusal → Prop
  | .next s, .next t => s.Agrees t
  | .fault f, .fault g => f = g
  | .refused r, .refused q => r = q
  | _, _ => False

/-! ### The operations keep agreement -/

theorem agrees_raiseErr {s t : State} (h : s.Agrees t) (c : Cause) : (raiseErr c s).Agrees (raiseErr c t) := by
  obtain ⟨hinputs, hout, hready, herr, hregs⟩ := h
  refine ⟨hinputs, hout, ?_, ?_, fun hr => hregs ?_⟩
  · rw [raiseErr_ready, raiseErr_ready, hready]
  · rw [raiseErr_err, raiseErr_err, herr]
  · rw [raiseErr_ready, Bool.and_eq_true] at hr
    exact hr.1

/-- What a ramp `INIT` starts is determined by the operands (R201). -/
theorem agrees_startRamp {s t : State} (h : s.Agrees t) (k : BitVec 2) (rule order : Word) (o : Order)
    (seed : SeedValue) :
    (startRamp (startInstance k rule order o seed s)).Agrees (startRamp (startInstance k rule order o seed t)) := by
  obtain ⟨hinputs, hout, -, -, -⟩ := h
  exact ⟨hinputs, hout, rfl, rfl, fun _ => ⟨rfl, rfl, rfl, rfl, rfl, fun _ => ⟨rfl, rfl, rfl, rfl⟩⟩⟩

/-- `INIT.B` leaves the ramp registers, which kind `BLOCK` never reads (R150). -/
theorem agrees_startInstance_block {s t : State} (h : s.Agrees t) (rule order : Word) (o : Order)
    (seed : SeedValue) :
    (startInstance Config.kindBlock rule order o seed s).Agrees
      (startInstance Config.kindBlock rule order o seed t) := by
  obtain ⟨hinputs, hout, -, -, -⟩ := h
  exact ⟨hinputs, hout, rfl, rfl, fun _ => ⟨rfl, rfl, rfl, rfl, rfl, fun hk => absurd rfl hk⟩⟩

/-! ### The three `INIT`s -/

theorem exec_initR (rule order : Word) (seed : SeedValue) (s : State) :
    exec (.initR rule order seed) s = execInitR rule order seed s := rfl

theorem exec_initRR (rule order : Word) (seed : SeedValue) (s : State) :
    exec (.initRR rule order seed) s = execInitRR rule order seed s := rfl

theorem exec_initB (rule order : Word) (seed : SeedValue) (s : State) :
    exec (.initB rule order seed) s = execInitB rule order seed s := rfl

theorem execInitB_of_check_ok {rule order : Word} {seed : SeedValue} {o : Order}
    (h : checkInit order seed = .ok o) (s : State) :
    execInitB rule order seed s = .next (startInstance Config.kindBlock rule order o seed s) := by
  rw [execInitB, h]

theorem outcomesAgree_init {rule order : Word} {seed : SeedValue} {i : Instr} (hi : i ∈ initsOf rule order seed)
    {s t : State} (h : s.Agrees t) : OutcomesAgree (exec i s) (exec i t) := by
  cases hcheck : checkInit order seed with
  | error c =>
    have hends := endsInstance_of_checkInit_error hcheck
    rw [exec_init_of_check_error hi hcheck, exec_init_of_check_error hi hcheck, ← raiseErr_of_endsInstance hends,
      ← raiseErr_of_endsInstance hends]
    exact agrees_raiseErr h c
  | ok o =>
    rcases mem_initsOf.mp hi with rfl | rfl | rfl
    · rw [exec_initR, exec_initR, execInitR_of_check_ok hcheck, execInitR_of_check_ok hcheck]
      exact agrees_startRamp h _ _ _ _ _
    · rw [exec_initRR, exec_initRR, execInitRR_of_check_ok hcheck, execInitRR_of_check_ok hcheck]
      exact agrees_startRamp h _ _ _ _ _
    · rw [exec_initB, exec_initB, execInitB_of_check_ok hcheck, execInitB_of_check_ok hcheck]
      exact agrees_startInstance_block h _ _ _ _

/-! ### `BSTEP` -/

theorem execBstep_of_illegal_order {s : State} (hs : s.BlockReady) (horder : legalOrder s.order.toNat = none) :
    execBstep s = .fault .orderUndefined := by
  obtain ⟨hready, hkind⟩ := hs
  simp [execBstep, hready, hkind, horder]

theorem agrees_evolved {s t : State} (h : s.Agrees t) (hs : s.BlockReady) (o : Order) :
    (evolved o s).Agrees (evolved o t) := by
  obtain ⟨hinputs, -, hready, herr, hregs⟩ := h
  obtain ⟨hcells, hrule, horder, hseed, hkind, -⟩ := hregs hs.1
  have hnext : evolve s.cells s.rule o = evolve t.cells t.rule o := by rw [hcells, hrule]
  refine ⟨hinputs, ?_, hready, herr, fun _ => ⟨hnext, hrule, horder, hseed, hkind, fun hk => absurd hs.2 hk⟩⟩
  rw [evolved_out, evolved_out, hnext]

theorem outcomesAgree_bstep {s t : State} (h : s.Agrees t) : OutcomesAgree (execBstep s) (execBstep t) := by
  have ⟨_, _, hready, _, hregs⟩ := h
  by_cases hrs : s.ready = true
  swap
  · have hrs' : s.ready = false := by simpa using hrs
    rw [execBstep_of_not_ready hrs', execBstep_of_not_ready (hready ▸ hrs')]
    exact agrees_raiseErr h _
  have hrt : t.ready = true := hready ▸ hrs
  obtain ⟨-, -, horder, -, hkind, -⟩ := hregs hrs
  by_cases hks : s.kind = Config.kindBlock
  swap
  · rw [execBstep_of_kind_ne hrs hks, execBstep_of_kind_ne hrt (hkind ▸ hks)]
    exact agrees_raiseErr h _
  have hbs : s.BlockReady := ⟨hrs, hks⟩
  have hbt : t.BlockReady := ⟨hrt, hkind ▸ hks⟩
  cases hlegal : legalOrder s.order.toNat with
  | none =>
    rw [execBstep_of_illegal_order hbs hlegal, execBstep_of_illegal_order hbt (horder ▸ hlegal)]
    rfl
  | some o =>
    obtain ⟨-, -, ho⟩ := legalOrder_eq_some hlegal
    rw [execBstep_of_blockReady hbs ho, execBstep_of_blockReady hbt (horder ▸ ho)]
    exact agrees_evolved h hbs o

/-! ### `TICK` -/

/-- The state with another free-value index, all else the same. -/
def withFresh (n : Nat) (s : State) : State := { s with fresh := n }

/-- Ready in a ramp kind, two states that agree differ in the free-value index alone. -/
theorem eq_withFresh_of_agrees {s t : State} (h : s.Agrees t) (hs : s.RampReady) : t = withFresh t.fresh s := by
  obtain ⟨hinputs, hout, hready, herr, hregs⟩ := h
  obtain ⟨hcells, hrule, horder, hseed, hkind, hramp⟩ := hregs hs.1
  obtain ⟨hpa, hcv, htv, hdelta⟩ := hramp hs.2
  simp only [withFresh, hinputs, hout, hready, herr, hcells, hrule, horder, hseed, hkind, hpa, hcv, htv, hdelta]

theorem agrees_withFresh (n : Nat) (s : State) : s.Agrees (withFresh n s) :=
  ⟨rfl, rfl, rfl, rfl, fun _ => ⟨rfl, rfl, rfl, rfl, rfl, fun _ => ⟨rfl, rfl, rfl, rfl⟩⟩⟩

theorem outcomesAgree_mapNext_withFresh (n : Nat) (x : Host.Outcome State Fault Refusal) :
    OutcomesAgree x (mapNext (withFresh n) x) := by
  cases x with
  | next s => exact agrees_withFresh n s
  | fault f => exact rfl
  | refused r => exact rfl

theorem reseed_withFresh (n : Nat) (s : State) : reseed (withFresh n s) = (reseed s).map (withFresh n) := by
  have horder : (withFresh n s).order = s.order := rfl
  have hsame : (withFresh n s).seed = s.seed := rfl
  unfold reseed
  rw [horder, hsame]
  cases legalOrder s.order.toNat with
  | none => rfl
  | some o =>
    dsimp only
    cases admissible s.seed <;> rfl

theorem applyTrigger_withFresh (trig : Sfx) (n : Nat) (s : State) :
    applyTrigger trig (withFresh n s) = (applyTrigger trig s).map (withFresh n) := by
  unfold applyTrigger
  rw [reseed_withFresh, show (withFresh n s).kind = s.kind from rfl]
  split <;> rfl

theorem advance_withFresh (mag n : Nat) (s : State) :
    advance mag (withFresh n s) = (advance mag s).map (withFresh n) := by
  unfold advance
  dsimp only [withFresh]
  split
  · cases legalOrder s.order.toNat <;> rfl
  · rfl

/-- No step of a `TICK` reads the free-value index. -/
theorem execTick_withFresh (speed trig : Sfx) (n : Nat) (s : State) :
    execTick speed trig (withFresh n s) = mapNext (withFresh n) (execTick speed trig s) := by
  unfold execTick
  rw [show (withFresh n s).ready = s.ready from rfl, show (withFresh n s).kind = s.kind from rfl]
  by_cases hready : s.ready = false
  · rw [if_pos hready, if_pos hready]
    rfl
  rw [if_neg hready, if_neg hready]
  by_cases hkind : s.kind = Config.kindBlock
  · rw [if_pos hkind, if_pos hkind]
    rfl
  rw [if_neg hkind, if_neg hkind]
  by_cases hfrozen : frozen speed = true
  · rw [if_pos hfrozen, if_pos hfrozen]
    rfl
  rw [if_neg hfrozen, if_neg hfrozen, applyTrigger_withFresh]
  cases applyTrigger trig s with
  | error f => rfl
  | ok s1 =>
    dsimp only [Except.map]
    rw [advance_withFresh]
    cases advance (absSfx speed) s1 <;> rfl

theorem outcomesAgree_tick {s t : State} (h : s.Agrees t) (speed trig : Sfx) :
    OutcomesAgree (execTick speed trig s) (execTick speed trig t) := by
  have ⟨_, _, hready, _, hregs⟩ := h
  by_cases hrs : s.ready = true
  swap
  · have hrs' : s.ready = false := by simpa using hrs
    rw [execTick_of_not_ready hrs', execTick_of_not_ready (hready ▸ hrs')]
    exact agrees_raiseErr h _
  obtain ⟨-, -, -, -, hkind, -⟩ := hregs hrs
  by_cases hks : s.kind = Config.kindBlock
  · rw [execTick_of_blockReady ⟨hrs, hks⟩, execTick_of_blockReady ⟨hready ▸ hrs, hkind ▸ hks⟩]
    exact agrees_raiseErr h _
  · rw [eq_withFresh_of_agrees h ⟨hrs, hks⟩, execTick_withFresh]
    exact outcomesAgree_mapNext_withFresh _ _

/-! ### Steps and runs -/

theorem outcomesAgree_exec {s t : State} (h : s.Agrees t) (i : Instr) : OutcomesAgree (exec i s) (exec i t) := by
  cases i with
  | nop => exact h
  | initR rule order seed => exact outcomesAgree_init (mem_initsOf.mpr (.inl rfl)) h
  | initRR rule order seed => exact outcomesAgree_init (mem_initsOf.mpr (.inr (.inl rfl))) h
  | initB rule order seed => exact outcomesAgree_init (mem_initsOf.mpr (.inr (.inr rfl))) h
  | tick speed trig => exact outcomesAgree_tick h speed trig
  | bstep => exact outcomesAgree_bstep h

theorem agrees_beginStep {s t : State} (h : s.Agrees t) : (beginStep s).Agrees (beginStep t) := by
  obtain ⟨hinputs, -, hready, herr, hregs⟩ := h
  exact ⟨congrArg List.tail hinputs, rfl, hready, herr, hregs⟩

/-- What a reset leaves unspecified is never read while `READY` = 0 (R41). -/
theorem agrees_resetEvent {s t : State} (h : s.Agrees t) : (resetEvent s).Agrees (resetEvent t) := by
  obtain ⟨hinputs, -⟩ := h
  exact ⟨hinputs, rfl, rfl, rfl, fun hready => absurd hready Bool.false_ne_true⟩

theorem nextInput_eq_of_agrees {s t : State} (h : s.Agrees t) : nextInput s = nextInput t := by
  obtain ⟨hinputs, -⟩ := h
  rw [nextInput, nextInput, hinputs]

/-- Both states take the same input. -/
theorem outcomesAgree_step {s t : State} (h : s.Agrees t) : OutcomesAgree (step s) (step t) := by
  have hbegin := agrees_beginStep h
  have hsame := nextInput_eq_of_agrees h
  cases hnext : nextInput s with
  | idle =>
    rw [step_of_idle hnext, step_of_idle (hsame ▸ hnext)]
    exact hbegin
  | reset =>
    rw [step_of_reset hnext, step_of_reset (hsame ▸ hnext)]
    exact agrees_resetEvent hbegin
  | command c =>
    cases hdecode : decode c with
    | error e =>
      rw [step_of_decode_error hnext hdecode, step_of_decode_error (hsame ▸ hnext) hdecode]
      exact agrees_raiseErr hbegin _
    | ok i =>
      rw [step_of_accepts hnext hdecode, step_of_accepts (hsame ▸ hnext) hdecode]
      exact outcomesAgree_exec hbegin i

theorem exists_next_of_outcomesAgree {s' : State} {y : Host.Outcome State Fault Refusal}
    (h : OutcomesAgree (.next s') y) : ∃ t', y = .next t' ∧ s'.Agrees t' := by
  cases y with
  | next t' => exact ⟨t', rfl, h⟩
  | fault f => exact h.elim
  | refused r => exact h.elim

theorem eq_fault_of_outcomesAgree {f : Fault} {y : Host.Outcome State Fault Refusal}
    (h : OutcomesAgree (.fault f) y) : y = .fault f := by
  cases y with
  | next t' => exact h.elim
  | fault g => exact congrArg _ (Eq.symm h)
  | refused r => exact h.elim

theorem eq_refused_of_outcomesAgree {r : Refusal} {y : Host.Outcome State Fault Refusal}
    (h : OutcomesAgree (.refused r) y) : y = .refused r := by
  cases y with
  | next t' => exact h.elim
  | fault f => exact h.elim
  | refused q => exact congrArg _ (Eq.symm h)

/-- Settles O56: the outcomes of the two steps agree. -/
theorem stepKeepsAgreement : Obligations.StepKeepsAgreement := by
  intro s t h
  have hstep := outcomesAgree_step h
  refine ⟨fun s' hs' => ?_, fun f hf => ?_⟩
  · rw [hs'] at hstep
    exact exists_next_of_outcomesAgree hstep
  · rw [hf] at hstep
    exact eq_fault_of_outcomesAgree hstep

/-- After a reset nothing is left to disagree on (R201). -/
theorem agrees_after_reset {s t : State} (hinputs : s.inputs = t.inputs) (hs : s.ready = false)
    (ht : t.ready = false) (hes : s.err = .noError) (het : t.err = .noError) (hos : s.out = none)
    (hot : t.out = none) : s.Agrees t :=
  ⟨hinputs, hos.trans hot.symm, hs.trans ht.symm, hes.trans het.symm,
    fun hready => absurd (hs.symm.trans hready) Bool.false_ne_true⟩

theorem emissions_eq_of_agrees (k : Nat) {s t : State} (h : s.Agrees t) : emissions k s = emissions k t := by
  induction k generalizing s t with
  | zero => rfl
  | succ k ih =>
    have hstep := outcomesAgree_step h
    rw [emissions, emissions]
    cases hs : step s with
    | next s' =>
      rw [hs] at hstep
      obtain ⟨t', ht, hagree⟩ := exists_next_of_outcomesAgree hstep
      have ⟨_, hout, _⟩ := hagree
      rw [ht]
      dsimp only
      rw [hout, ih hagree]
    | fault f =>
      rw [hs] at hstep
      rw [eq_fault_of_outcomesAgree hstep]
    | refused r =>
      rw [hs] at hstep
      rw [eq_refused_of_outcomesAgree hstep]

theorem run_agrees {k : Nat} {s t s' : State} (h : s.Agrees t)
    (hrun : Host.Core.run Sys2Proof.core k s = .next s') :
    ∃ t', Host.Core.run Sys2Proof.core k t = .next t' ∧ s'.Agrees t' := by
  induction k generalizing s t with
  | zero => cases hrun; exact ⟨t, rfl, h⟩
  | succ k ih =>
    obtain ⟨u, hs, hrest⟩ := core_run_succ_next hrun
    obtain ⟨v, ht, hagree⟩ := (stepKeepsAgreement s t h).1 u hs
    obtain ⟨t', hrun', hagree'⟩ := ih hagree hrest
    exact ⟨t', (core_run_succ_of_next k ht).trans hrun', hagree'⟩

/-- Settles O57: two such states agree, and agreement is kept along the run, by induction on the number of steps. -/
theorem runsDoNotDependOnUnspecifiedRegisters : Obligations.RunsDoNotDependOnUnspecifiedRegisters := by
  intro k s t hinputs hs ht hes het hos hot
  have hagree := agrees_after_reset hinputs hs ht hes het hos hot
  exact ⟨emissions_eq_of_agrees k hagree, fun s' hrun => run_agrees hagree hrun⟩

end Sys2Proof.Agreement
end
